-- ==== Sys2Proof/Word.lean ====
section
/-! DEFINITION. The words of the machine: a command word (30_encoding.md R92), a byte of the framebuffer
(20_memory.md R60) and a pin identifier (10_state.md R24). All quantities are unsigned (00_scope.md R9). -/

namespace Sys2Proof

/-- A command word: exactly 32 bits, bit 31 the most significant (R92). -/
abbrev Word := BitVec 32

/-- A byte of the framebuffer; bit 0 is the least significant bit and the leftmost pixel (R62). -/
abbrev Byte := BitVec 8

/-- A pin identifier (R24), `PIN_BITS` = 6 bits wide (R7); the C format fixes the width (R92). Every value is a legal
pin. -/
abbrev Pin := BitVec 6

end Sys2Proof
end

