-- ==== Sys2Proof/Syntax.lean ====
section
/-! DEFINITION. The commands: one constructor per row of spec/opcode_table.json (30_encoding.md R94), their
textual form (R99), the pseudo-commands (R100), and the names of the reserved encodings (R97). -/

namespace Sys2Proof

/-- The nine commands (R94). Every operand has exactly the width of its field (R93). -/
inductive Instr where
  | construct (mode : BitVec 4) (colPin hsPin vsPin : Pin)
  | destroy
  | start
  | stop
  | setPixel (x : BitVec 16) (y : BitVec 12)
  | clearPixel (x : BitVec 16) (y : BitVec 12)
  | getPixel (x : BitVec 16) (y : BitVec 12)
  | fill (v : BitVec 1)
  | writeRowByte (y : BitVec 12) (k d : BitVec 8)
deriving DecidableEq, Repr

/-- Why a word is reserved (R96, R97). -/
inductive Reserved where
  /-- `op` is 0x0 or 0xA to 0xF. -/
  | unassignedOp (op : BitVec 4)
  /-- A must-be-zero bit of format C, N or V is set. -/
  | mustBeZero (op : BitVec 4)
deriving DecidableEq, Repr

/-- The pseudo-commands of R100. -/
inductive Pseudo where
  | writeRow (y : BitVec 12) (bytes : List Byte)
  | clearScreen
  | flashScreen
  | restart
deriving DecidableEq, Repr

/-- The mnemonic of a command, as the table spells it (R94). -/
def Instr.mnemonic : Instr → String
  | .construct _ _ _ _ => "CONSTRUCT"
  | .destroy => "DESTROY"
  | .start => "START"
  | .stop => "STOP"
  | .setPixel _ _ => "SET_PIXEL"
  | .clearPixel _ _ => "CLEAR_PIXEL"
  | .getPixel _ _ => "GET_PIXEL"
  | .fill _ => "FILL"
  | .writeRowByte _ _ _ => "WRITE_ROW_BYTE"

/-- The operands in the order of the text form (R99): `x` before `y`, the colour pin first. -/
def Instr.operands : Instr → List Nat
  | .construct mode col hs vs => [mode.toNat, col.toNat, hs.toNat, vs.toNat]
  | .destroy => []
  | .start => []
  | .stop => []
  | .setPixel x y => [x.toNat, y.toNat]
  | .clearPixel x y => [x.toNat, y.toNat]
  | .getPixel x y => [x.toNat, y.toNat]
  | .fill v => [v.toNat]
  | .writeRowByte y k d => [y.toNat, k.toNat, d.toNat]

/-- Operands as unsigned decimal numbers separated by commas (R99). -/
def operandText : List Nat → String
  | [] => ""
  | [n] => toString n
  | n :: ns => toString n ++ ", " ++ operandText ns

/-- The textual form of a command (R99). -/
def Instr.text (i : Instr) : String :=
  match i.operands with
  | [] => i.mnemonic
  | ns => i.mnemonic ++ " " ++ operandText ns

/-- `WRITE_ROW_BYTE y, k, b` for the bytes of a row from index `k` on, in ascending `k` (R100). -/
def rowWrites (y : BitVec 12) : Nat → List Byte → List Instr
  | _, [] => []
  | k, b :: bs => .writeRowByte y (BitVec.ofNat 8 k) b :: rowWrites y (k + 1) bs

/-- The expansion of a pseudo-command (R100). -/
def Pseudo.expand : Pseudo → List Instr
  | .writeRow y bytes => rowWrites y 0 bytes
  | .clearScreen => [.fill 0]
  | .flashScreen => [.fill 1]
  | .restart => [.stop, .start]

end Sys2Proof
end

