-- ==== Sys2Proof/Decode.lean ====
section
/-! DEFINITION. Decoding a command word, total on all 2^32 words and rejecting by name (30_encoding.md R96, R97),
the opcode map of R94 as rows of data, and the encoder written from the same formats (R92). -/

namespace Sys2Proof

/-- One row of the opcode map (R94). -/
structure OpRow where
  mnemonic : String
  op : BitVec 4
  matchBits : Word
  mask : Word
deriving DecidableEq, Repr

/-- A word is the row's command if and only if `(w and mask) = match` (R94). -/
def OpRow.hits (r : OpRow) (w : Word) : Bool := w &&& r.mask == r.matchBits

def rowConstruct : OpRow := ⟨"CONSTRUCT", 0x1, 0x10000000, 0xF0FC0000⟩
def rowDestroy : OpRow := ⟨"DESTROY", 0x2, 0x20000000, 0xFFFFFFFF⟩
def rowStart : OpRow := ⟨"START", 0x3, 0x30000000, 0xFFFFFFFF⟩
def rowStop : OpRow := ⟨"STOP", 0x4, 0x40000000, 0xFFFFFFFF⟩
def rowSetPixel : OpRow := ⟨"SET_PIXEL", 0x5, 0x50000000, 0xF0000000⟩
def rowClearPixel : OpRow := ⟨"CLEAR_PIXEL", 0x6, 0x60000000, 0xF0000000⟩
def rowGetPixel : OpRow := ⟨"GET_PIXEL", 0x7, 0x70000000, 0xF0000000⟩
def rowFill : OpRow := ⟨"FILL", 0x8, 0x80000000, 0xFFFFFFFE⟩
def rowWriteRowByte : OpRow := ⟨"WRITE_ROW_BYTE", 0x9, 0x90000000, 0xF0000000⟩

/-- The opcode map (R94). -/
def opcodeMap : List OpRow :=
  [rowConstruct, rowDestroy, rowStart, rowStop, rowSetPixel, rowClearPixel, rowGetPixel, rowFill, rowWriteRowByte]

/-- The row a command is encoded by (R94). -/
def Instr.row : Instr → OpRow
  | .construct _ _ _ _ => rowConstruct
  | .destroy => rowDestroy
  | .start => rowStart
  | .stop => rowStop
  | .setPixel _ _ => rowSetPixel
  | .clearPixel _ _ => rowClearPixel
  | .getPixel _ _ => rowGetPixel
  | .fill _ => rowFill
  | .writeRowByte _ _ _ => rowWriteRowByte

/-- `op`, bits 31:28 of every format (R92). -/
def fieldOp (w : Word) : BitVec 4 := w.extractLsb' 28 4
/-- Format C, bits 27:24 (R92). -/
def fieldMode (w : Word) : BitVec 4 := w.extractLsb' 24 4
/-- Format C, bits 17:12 (R92). -/
def fieldVsPin (w : Word) : Pin := w.extractLsb' 12 6
/-- Format C, bits 11:6 (R92). -/
def fieldHsPin (w : Word) : Pin := w.extractLsb' 6 6
/-- Format C, bits 5:0 (R92). -/
def fieldColPin (w : Word) : Pin := w.extractLsb' 0 6
/-- Formats P and B, bits 27:16 (R92). -/
def fieldY (w : Word) : BitVec 12 := w.extractLsb' 16 12
/-- Format P, bits 15:0 (R92). -/
def fieldX (w : Word) : BitVec 16 := w.extractLsb' 0 16
/-- Format V, bit 0 (R92). -/
def fieldV (w : Word) : BitVec 1 := w.extractLsb' 0 1
/-- Format B, bits 15:8 (R92). -/
def fieldK (w : Word) : BitVec 8 := w.extractLsb' 8 8
/-- Format B, bits 7:0 (R92). -/
def fieldD (w : Word) : BitVec 8 := w.extractLsb' 0 8

/-- The command of a word whose `op` is the row's, once its must-be-zero bits are checked (R96). -/
def decodeAs (r : OpRow) (w : Word) (i : Instr) : Except Reserved Instr :=
  if r.hits w then .ok i else .error (.mustBeZero r.op)

/-- The decoding procedure (R96): look `op` up, check the must-be-zero bits, extract the fields (R93). -/
def decode (w : Word) : Except Reserved Instr :=
  if fieldOp w = 0x1 then
    decodeAs rowConstruct w (.construct (fieldMode w) (fieldColPin w) (fieldHsPin w) (fieldVsPin w))
  else if fieldOp w = 0x2 then decodeAs rowDestroy w .destroy
  else if fieldOp w = 0x3 then decodeAs rowStart w .start
  else if fieldOp w = 0x4 then decodeAs rowStop w .stop
  else if fieldOp w = 0x5 then decodeAs rowSetPixel w (.setPixel (fieldX w) (fieldY w))
  else if fieldOp w = 0x6 then decodeAs rowClearPixel w (.clearPixel (fieldX w) (fieldY w))
  else if fieldOp w = 0x7 then decodeAs rowGetPixel w (.getPixel (fieldX w) (fieldY w))
  else if fieldOp w = 0x8 then decodeAs rowFill w (.fill (fieldV w))
  else if fieldOp w = 0x9 then decodeAs rowWriteRowByte w (.writeRowByte (fieldY w) (fieldK w) (fieldD w))
  else .error (.unassignedOp (fieldOp w))

/-- A field put in its place: its least significant bit becomes bit `lo` of the word (R92). -/
def place {n : Nat} (lo : Nat) (field : BitVec n) : Word := field.setWidth 32 <<< lo

/-- The word of a command: its fields in the places of its format (R92), must-be-zero fields 0. -/
def encode : Instr → Word
  | .construct mode colPin hsPin vsPin =>
    place 28 0x1#4 ||| place 24 mode ||| place 12 vsPin ||| place 6 hsPin ||| place 0 colPin
  | .destroy => place 28 0x2#4
  | .start => place 28 0x3#4
  | .stop => place 28 0x4#4
  | .setPixel x y => place 28 0x5#4 ||| place 16 y ||| place 0 x
  | .clearPixel x y => place 28 0x6#4 ||| place 16 y ||| place 0 x
  | .getPixel x y => place 28 0x7#4 ||| place 16 y ||| place 0 x
  | .fill v => place 28 0x8#4 ||| place 0 v
  | .writeRowByte y k d => place 28 0x9#4 ||| place 16 y ||| place 8 k ||| place 0 d

/-- The 32-bit word whose low `nbits` bits are those of `w` and whose other bits are 0: the numbering of
spec/opcode_table.json, in which every row has 32 bits. -/
def tableWord (nbits w : Nat) : Word := BitVec.ofNat 32 (w % 2 ^ nbits)

/-- What this decoder reads from a word numbered as spec/opcode_table.json numbers it. A command is one 32-bit word
presented on the command port (R91), so there is no byte order to lay out. -/
def decodeTableWord (nbits w : Nat) : Option Instr :=
  match decode (tableWord nbits w) with
  | .ok i => some i
  | .error _ => none

end Sys2Proof
end

