-- ==== Sys2Proof/Config.lean ====
section
/-! DEFINITION. The parameters of 00_scope.md R7 as one record of plain data, the values this hardware takes,
the quantities R7 derives from them, and the free values: constants with no body, which nothing can evaluate. -/

namespace Sys2Proof

/-- `OOB_POLICY` (R7, R121): what an out-of-range pixel write does. -/
inductive OobPolicy where
  | fail   -- status `OutOfBounds`
  | clip   -- status `OK`, nothing written
deriving DecidableEq, Repr

/-- `FETCH_POLICY` (R7, R78, R185): when the serializer reads a framebuffer byte. -/
inductive FetchPolicy where
  | jit        -- in the TICK that shows the byte's first pixel
  | rowLatch   -- the whole row in the line-boundary TICK
  | any        -- some TICK between the two, freely chosen per byte
deriving DecidableEq, Repr

/-- The parameters of R7. A level is a Bool: `false` is level 0, `true` is level 1. -/
structure Config where
  /-- `H_ACTIVE`, pixel periods. -/
  hActive : Nat
  /-- `H_SYNC`, pixel periods. -/
  hSync : Nat
  /-- `H_BACK`, pixel periods. -/
  hBack : Nat
  /-- `H_FRONT`, pixel periods. -/
  hFront : Nat
  /-- `H_TOTAL`, pixel periods. -/
  hTotal : Nat
  /-- `V_ACTIVE`, lines. -/
  vActive : Nat
  /-- `V_SYNC`, lines. -/
  vSync : Nat
  /-- `V_BACK`, lines. -/
  vBack : Nat
  /-- `V_FRONT`, lines. -/
  vFront : Nat
  /-- `V_TOTAL`, lines. -/
  vTotal : Nat
  /-- `PCLK_HZ`: no rule of the machine depends on it (R290). -/
  pclkHz : Nat
  /-- `SYNC_ACTIVE`. -/
  syncActive : Bool
  /-- `COLOR_ACTIVE`. -/
  colorActive : Bool
  /-- `COLOR_INACTIVE`. -/
  colorInactive : Bool
  /-- `W`, the framebuffer's width in pixels. -/
  width : Nat
  /-- `H`, the framebuffer's height in pixels. -/
  height : Nat
  /-- `MODE_VGA640`, the identifier of the one supported mode. -/
  modeVga640 : BitVec 4
  /-- `TC_CHANNELS`. -/
  tcChannels : Nat
  /-- `SE_CHANNELS`. -/
  seChannels : Nat
  /-- `PIN_BITS`, the width of a pin identifier (D32). -/
  pinBits : Nat
  /-- `POOL_TIMING`: OPEN (D17). -/
  poolTiming : Nat
  /-- `POOL_OUTPUT`: OPEN (D17). -/
  poolOutput : Nat
  /-- `OOB_POLICY`. -/
  oobPolicy : OobPolicy
  /-- `LB_LATENCY`, pixel periods. -/
  lbLatency : Nat
  /-- `FETCH_POLICY`. -/
  fetchPolicy : FetchPolicy
  /-- `DOUBLE_BUFFER`. -/
  doubleBuffer : Bool
deriving DecidableEq, Repr

/-- The values R7 gives this hardware; the two OPEN ones are arguments (D17). The timing numbers other than
640 and 480 are the spec's general-knowledge values (R142, D1). -/
def Config.vga640 (poolTiming poolOutput : Nat) : Config where
  hActive := 640
  hSync := 96
  hBack := 48
  hFront := 16
  hTotal := 800
  vActive := 480
  vSync := 2
  vBack := 33
  vFront := 10
  vTotal := 525
  pclkHz := 25175000
  syncActive := false
  colorActive := true
  colorInactive := false
  width := 640
  height := 480
  modeVga640 := 0
  tcChannels := 2
  seChannels := 1
  pinBits := 6
  poolTiming := poolTiming
  poolOutput := poolOutput
  oobPolicy := .fail
  lbLatency := 0
  fetchPolicy := .jit
  doubleBuffer := false

/-- `SYNC_INACTIVE`, the other level than `SYNC_ACTIVE` (R7). -/
def Config.syncInactive (c : Config) : Bool := !c.syncActive

/-- `NBYTES = ceil(W*H/8)` (R7, R67; the formula wins over the literal, 90_conflicts.md C1). -/
def Config.nbytes (c : Config) : Nat := (c.width * c.height + 7) / 8

/-- `ROWBYTES = W/8` (R7). -/
def Config.rowBytes (c : Config) : Nat := c.width / 8

/-- `H0 = H_SYNC + H_BACK`, the first `hcount` of the active window (R7). -/
def Config.h0 (c : Config) : Nat := c.hSync + c.hBack

/-- `V0 = V_SYNC + V_BACK`, the first `vcount` of active video (R7). -/
def Config.v0 (c : Config) : Nat := c.vSync + c.vBack

/-- Pixel periods in a frame, `H_TOTAL * V_TOTAL` (R32). -/
def Config.framePeriods (c : Config) : Nat := c.hTotal * c.vTotal

/-- FREE VALUE (log entry 6): the byte at an address of a framebuffer the spec leaves unspecified (R50, R202),
for the draw with the given number. -/
opaque Config.freeByte : Nat → Nat → Byte

/-- FREE VALUE (log entry 6): under `FETCH_POLICY = ANY`, whether the TICK with the given draw number reads the
byte with the given index of the row (R185: "a free choice"). -/
opaque Config.fetchNow : Nat → Nat → Bool

end Sys2Proof
end

