-- ==== Sys2Proof/Machine/State.lean ====
section
/-! DEFINITION. The architectural state (10_state.md): driver instances over one resource pool, the parameters, the
events the outside world has scheduled, and what a step can stop with. All of it is plain data. -/

namespace Sys2Proof.Machine

/-- A pin level: 0, 1 or Z, released (00_scope.md R9). -/
inductive Level where
  | low
  | high
  | z
deriving DecidableEq, Repr

/-- `lc_state` (R22): the source's `Stopped` is `idle` (90_conflicts.md C2). -/
inductive LcState where
  | idle
  | running
deriving DecidableEq, Repr

/-- The status of a command: `OK` and the six error kinds (60_exceptions.md R231). -/
inductive Status where
  | ok
  | modeUnsupported
  | pinConflict
  | resourceExhausted
  | alreadyRunning
  | notRunning
  | outOfBounds
deriving DecidableEq, Repr

/-- The response to a command: `rsp_status` and `rsp_data` (30_encoding.md R90, R95). -/
structure Response where
  status : Status
  data : Bool
deriving DecidableEq, Repr

/-- A byte memory: (address, byte) pairs, addresses strictly rising, no entry 0x00; an unlisted address reads 0x00,
the content `CONSTRUCT` gives the framebuffer (R44, R128; log entry 2). -/
abbrev Memory := List Host.Cell

/-- `fill_next` (R47): the value and the next byte address of a `FILL` pass in progress. -/
structure FillPass where
  value : Bool
  next : Nat
deriving DecidableEq, Repr

/-- The resource pool `P` (R48). `pins` is a set: strictly rising, no repeats. -/
structure Pool where
  pins : List Pin
  freeTiming : Nat
  freeOutput : Nat
deriving DecidableEq, Repr

/-- One driver instance (R20), with its response port (R90). `claimed` (R46) is computed, not stored. -/
structure Driver where
  /-- `constructed` (R21). -/
  constructed : Bool
  /-- `lc_state` (R22). -/
  lcState : LcState
  /-- `cfg_mode` (R23). -/
  cfgMode : BitVec 4
  /-- `cfg_col_pin` (R24). -/
  cfgColPin : Pin
  /-- `cfg_hs_pin` (R24). -/
  cfgHsPin : Pin
  /-- `cfg_vs_pin` (R24). -/
  cfgVsPin : Pin
  /-- `tc_armed` (R26). -/
  tcArmed : Bool
  /-- `se_armed` (R27). -/
  seArmed : Bool
  /-- `hcount` (R30). -/
  hcount : BitVec 10
  /-- `vcount` (R31). -/
  vcount : BitVec 10
  /-- `scan_busy` (R33). -/
  scanBusy : Bool
  /-- `scan_line` (R34). -/
  scanLine : BitVec 9
  /-- `shreg` (R35), used under `FETCH_POLICY = JIT`. -/
  shreg : Byte
  /-- The latch of `ROWBYTES` bytes used instead of `shreg` under `ROW_LATCH` and `ANY` (R35, R185), by byte index. -/
  rowbuf : Memory
  /-- `fetched` (R185), used under `ANY`: the byte indices read in this line, strictly rising. -/
  fetched : List Nat
  /-- `pin_hsync` (R40). -/
  pinHsync : Level
  /-- `pin_vsync` (R40). -/
  pinVsync : Level
  /-- `pin_color` (R41). -/
  pinColor : Level
  /-- `fb` (R44). -/
  fb : Memory
  /-- `fill_next` (R47). -/
  fillNext : Option FillPass
  /-- The response port (R90): `none` is `rsp_valid = 0` (log entry 4). -/
  rsp : Option Response
deriving DecidableEq, Repr

/-- What one agent of one instance does in one step (R12). -/
inductive Action where
  /-- The host presents a command word (R91). -/
  | command (w : Word)
  /-- The host performs the next byte write of its `FILL` pass (R125). -/
  | fillWrite
  /-- A rising edge of the pixel clock (R147). -/
  | tick
deriving DecidableEq, Repr

/-- One scheduled event: an action of an instance, numbered 0 for `State.self` and k+1 for the k-th of
`State.peers`; or device reset `rst` (R270). -/
inductive Event where
  | act (inst : Nat) (a : Action)
  | reset
deriving DecidableEq, Repr

/-- The state of the device (R20). -/
structure State where
  /-- The parameters (00_scope.md R7): configuration, never changed by a step. -/
  cfg : Config
  /-- The resource pool `P`, shared by all instances (R48). -/
  pool : Pool
  /-- The instance whose agent acts. -/
  self : Driver
  /-- The other instances on the device (R20, R210). -/
  peers : List Driver
  /-- The model's own: the events still to happen, first one next (log entry 1). -/
  input : List Event
  /-- The model's own: how many free values have been drawn (log entry 6). -/
  draws : Nat
deriving DecidableEq, Repr

/-- What stops the machine with a fault. -/
inductive Fault where
  /-- An access to `fb` at an address at or above `NBYTES`, which the spec says no rule ever makes (20_memory.md R68,
  R173). Raised by the framebuffer's byte read and write. Safe: the invariants of the instances rule it out. -/
  | frameBufferAddress (a : Nat)
deriving DecidableEq, Repr

/-- What the machine refuses to step on (00_scope.md R10 `refuse`). -/
inductive Refusal where
  /-- A command with no meaning yet: raised by no arm of `exec`. Safe. -/
  | notModelled (mnemonic : String)
  /-- A reserved command word (30_encoding.md R97). Raised by the command port's decoder. Safe (D23). -/
  | reservedWord (why : Reserved)
  /-- A command other than `CONSTRUCT` while `constructed = 0` (43_driver_lifecycle.md R201). Raised by every other
  meaning. Safe (D21). -/
  | unconstructed
  /-- `CONSTRUCT` while `constructed = 1` (R201). Raised by `CONSTRUCT`. Safe (D21). -/
  | alreadyConstructed
  /-- `DESTROY` while `Running` (R201, R202). Raised by `DESTROY`. Safe (D21). -/
  | destroyWhileRunning
  /-- A command while the host's own `FILL` pass is in progress: "the host can issue no other command" (R47). Raised by
  every meaning. Safe: the host is one sequential context (R80). -/
  | fillInProgress
  /-- Parameters that break the constraints of 00_scope.md R8 (R66: "must refuse"). Raised by `CONSTRUCT`. Safe. -/
  | parameters
  /-- Parameters for which the check of `START` step (1) is false (R207: "must refuse"). Raised by `START`. Safe. -/
  | frameBufferSize
  /-- An event addressed to an instance that does not exist. Raised by the schedule. Safe. -/
  | noSuchInstance (inst : Nat)
deriving DecidableEq, Repr

/-- What a meaning answers. -/
abbrev Result := Host.Outcome State Fault Refusal

/-- A driver instance after device reset (10_state.md R50). `fb` is unspecified there: nothing listed, log entry 2.
`fetched` and the response port are the model's choice: log entries 7 and 4. -/
def Driver.reset : Driver where
  constructed := false
  lcState := .idle
  cfgMode := 0
  cfgColPin := 0
  cfgHsPin := 0
  cfgVsPin := 0
  tcArmed := false
  seArmed := false
  hcount := 0
  vcount := 0
  scanBusy := false
  scanLine := 0
  shreg := 0
  rowbuf := []
  fetched := []
  pinHsync := .z
  pinVsync := .z
  pinColor := .z
  fb := []
  fillNext := none
  rsp := none

/-- The pool after device reset (R50): nothing claimed, every channel free. -/
def Pool.reset (c : Config) : Pool where
  pins := []
  freeTiming := c.poolTiming
  freeOutput := c.poolOutput

/-- A device with the given parameters and number of peers after device reset (R50). -/
def State.resetOf (c : Config) (peers : Nat) : State where
  cfg := c
  pool := Pool.reset c
  self := Driver.reset
  peers := List.replicate peers Driver.reset
  input := []
  draws := 0

/-- The machine right after reset: the parameters of R7, the OPEN pool sizes and the number of instances as log
entry 3 names them. -/
def State.reset : State := State.resetOf (Config.vga640 2 1) 1

/-- Change a field of the addressed instance. -/
abbrev State.withSelf (s : State) (d : Driver) : State := { s with self := d }

end Sys2Proof.Machine
end

