-- ==== Sys2Proof/WellFormed.lean ====
section
/-! DEFINITION. What is well formed: a command (every term, since each operand's type is exactly its field, R93),
a pseudo-command (a row has ROWBYTES bytes, R100), and a set of parameters (the constraints of 00_scope.md R8 and of
the widths of registers and fields, 10_state.md R30, R31, R34, 30_encoding.md R92). -/

namespace Sys2Proof

/-- A command is well formed when every operand fits its field (R93). The operand types are the fields, so there is
no ill-formed command to refuse. -/
def Instr.wf (_ : Instr) : Bool := true

/-- `WRITE_ROW` takes one byte for each byte of the row (R100). -/
def Pseudo.wf (c : Config) : Pseudo → Bool
  | .writeRow _ bytes => bytes.length == c.rowBytes
  | .clearScreen => true
  | .flashScreen => true
  | .restart => true

/-- "The sum of horizontal sub-intervals equals the horizontal total" (R8, R143). -/
def Config.hSumOk (c : Config) : Bool := c.hSync + c.hBack + c.hActive + c.hFront == c.hTotal

/-- "Same for vertical" (R8, R143). -/
def Config.vSumOk (c : Config) : Bool := c.vSync + c.vBack + c.vActive + c.vFront == c.vTotal

/-- "Every count is at least 1 except that a porch may be 0" (R8). -/
def Config.countsOk (c : Config) : Bool :=
  decide (1 ≤ c.hSync) && decide (1 ≤ c.hActive) && decide (1 ≤ c.vSync) && decide (1 ≤ c.vActive)

/-- `W = H_ACTIVE`, `H = V_ACTIVE` (R8). -/
def Config.sizeOk (c : Config) : Bool := c.width == c.hActive && c.height == c.vActive

/-- `W mod 8 = 0` (R8, R66). -/
def Config.widthOk (c : Config) : Bool := c.width % 8 == 0

/-- The counters and `scan_line` fit their registers: 10, 10 and 9 bits (R30, R31, R34; log entry 8). -/
def Config.registersOk (c : Config) : Bool :=
  decide (c.hTotal ≤ 1024) && decide (c.vTotal ≤ 1024) && decide (c.height ≤ 512)

/-- `LB_LATENCY` is at most `H0` (R284, D8). -/
def Config.latencyOk (c : Config) : Bool := decide (c.lbLatency ≤ c.h0)

/-- The colour line has two different levels (R7; log entry 8). -/
def Config.levelsOk (c : Config) : Bool := c.colorActive != c.colorInactive

/-- `PIN_BITS` is the width of format C's pin fields (30_encoding.md R92, 93_implementation_defined.md V6; log entry 8). -/
def Config.pinBitsOk (c : Config) : Bool := c.pinBits == 6

/-- `DOUBLE_BUFFER` is false: "the value `true` has no rules here and a model does not implement it"
(93_implementation_defined.md U2). -/
def Config.singleBuffered (c : Config) : Bool := !c.doubleBuffer

/-- A set of parameters the rules have a meaning for (R8). -/
def Config.wf (c : Config) : Bool :=
  c.hSumOk && c.vSumOk && c.countsOk && c.sizeOk && c.widthOk && c.registersOk && c.latencyOk && c.levelsOk
    && c.singleBuffered && c.pinBitsOk

end Sys2Proof
end

