-- ==== Sys2Proof/Machine/Ops.lean ====
section
/-! DEFINITION. The named operations: the byte memory (20_memory.md R70, R74), the resource pool (60_exceptions.md R251
to R253), responses, errors and refusals (R240, R201), and the host's `FILL` pass (10_state.md R47). -/

namespace Sys2Proof.Machine

/-! ## Byte memories -/

/-- The byte at an address; an unlisted address reads 0x00. -/
def Memory.read : Memory → Nat → Byte
  | [], _ => 0
  | (b, v) :: m, a => if b = a then v else Memory.read m a

/-- Put a byte at an address, keeping the addresses rising; 0x00 is not listed. -/
def Memory.write : Memory → Nat → Byte → Memory
  | [], a, v => if v = 0 then [] else [(a, v)]
  | (b, u) :: m, a, v =>
    if a < b then (if v = 0 then (b, u) :: m else (a, v) :: (b, u) :: m)
    else if a = b then (if v = 0 then m else (a, v) :: m)
    else (b, u) :: Memory.write m a v

/-- The canonical form: every address at least `lo`, addresses strictly rising, no byte 0x00. -/
def Memory.wfFrom : Nat → Memory → Bool
  | _, [] => true
  | lo, (b, v) :: m => decide (lo ≤ b) && v != 0 && Memory.wfFrom (b + 1) m

/-- The canonical form of a memory. -/
def Memory.wf (m : Memory) : Bool := Memory.wfFrom 0 m

/-- Every listed address is below `n`. -/
def Memory.below (n : Nat) (m : Memory) : Bool := m.all fun cell => decide (cell.1 < n)

/-- The memory that holds `f a` at every address from `lo` on, `n` of them. -/
def Memory.ofFn (f : Nat → Byte) : Nat → Nat → Memory
  | _, 0 => []
  | lo, n + 1 => if f lo = 0 then Memory.ofFn f (lo + 1) n else (lo, f lo) :: Memory.ofFn f (lo + 1) n

/-- A framebuffer whose content the spec leaves unspecified (R50, R202): every byte a free value of the draw `n`
(log entry 6). -/
def unspecifiedFb (c : Config) (n : Nat) : Memory := Memory.ofFn (Config.freeByte n) 0 c.nbytes

/-- An instance in its reset state (10_state.md R50, R202), its framebuffer a free value of draw `n` (log entry 6). -/
def resetDriver (c : Config) (n : Nat) : Driver := { Driver.reset with fb := unspecifiedFb c n }

/-- `MemRead(addr, 1)` on the framebuffer (R70). An address at or above `NBYTES` does not exist (R67). -/
def fbRead (c : Config) (m : Memory) (a : Nat) : Except Fault Byte :=
  if a < c.nbytes then .ok (m.read a) else .error (.frameBufferAddress a)

/-- `MemWrite(addr, 1, v)` on the framebuffer (R74). -/
def fbWrite (c : Config) (m : Memory) (a : Nat) (v : Byte) : Except Fault Memory :=
  if a < c.nbytes then .ok (m.write a v) else .error (.frameBufferAddress a)

/-! ## Levels, status codes and ports -/

/-- The level of a driven pin (R9). -/
def Level.drive (b : Bool) : Level := if b then .high else .low

/-- `hsync_oe`, `vsync_oe`, `color_oe` (30_encoding.md R90): `oe = 0` is level Z. -/
def Level.outputEnable (l : Level) : Bool := l != .z

/-- `hsync_o`, `vsync_o`, `color_o` while the pin is driven (R90); a released pin drives no level. -/
def Level.output : Level → Option Bool
  | .low => some false
  | .high => some true
  | .z => none

/-- The encoding of `lc_state` (R22). -/
def LcState.code : LcState → BitVec 1
  | .idle => 0
  | .running => 1

/-- `rsp_status`, 4 bits (60_exceptions.md R231). -/
def Status.code : Status → BitVec 4
  | .ok => 0
  | .modeUnsupported => 1
  | .pinConflict => 2
  | .resourceExhausted => 3
  | .alreadyRunning => 4
  | .notRunning => 5
  | .outOfBounds => 6

/-! ## Claimed resources and the pool -/

/-- The pins an instance has claimed (10_state.md R46). -/
def Driver.claimedPins (d : Driver) : List Pin :=
  (if d.tcArmed then [d.cfgHsPin, d.cfgVsPin] else []) ++ (if d.seArmed then [d.cfgColPin] else [])

/-- The timing channels an instance holds (R46). -/
def Driver.claimedTiming (c : Config) (d : Driver) : Nat := if d.tcArmed then c.tcChannels else 0

/-- The output channels an instance holds (R46). -/
def Driver.claimedOutput (c : Config) (d : Driver) : Nat := if d.seArmed then c.seChannels else 0

/-- Add a pin to a set of pins, keeping it rising. -/
def insertPin (p : Pin) : List Pin → List Pin
  | [] => [p]
  | q :: qs => if p < q then p :: q :: qs else if p = q then q :: qs else q :: insertPin p qs

/-- Take a pin out of a set of pins. -/
def removePin (p : Pin) : List Pin → List Pin
  | [] => []
  | q :: qs => if p = q then qs else q :: removePin p qs

/-- `p ∈ P.pins`. -/
def Pool.holds (P : Pool) (p : Pin) : Bool := P.pins.contains p

/-- `claim_pin(p)` (R251). -/
def Pool.claimPin (P : Pool) (p : Pin) : Pool := { P with pins := insertPin p P.pins }

/-- `release_pin(p)` (R251). -/
def Pool.releasePin (P : Pool) (p : Pin) : Pool := { P with pins := removePin p P.pins }

/-- `claim_timing(n)` (R252). -/
def Pool.claimTiming (P : Pool) (n : Nat) : Pool := { P with freeTiming := P.freeTiming - n }

/-- `release_timing(n)` (R252). -/
def Pool.releaseTiming (P : Pool) (n : Nat) : Pool := { P with freeTiming := P.freeTiming + n }

/-- `claim_output(n)` (R253). -/
def Pool.claimOutput (P : Pool) (n : Nat) : Pool := { P with freeOutput := P.freeOutput - n }

/-- `release_output(n)` (R253). -/
def Pool.releaseOutput (P : Pool) (n : Nat) : Pool := { P with freeOutput := P.freeOutput + n }

/-! ## Responses, errors, refusals -/

/-- The response `(rsp_status, rsp_data)` on the addressed instance's port (R91, R95). -/
def State.respond (s : State) (st : Status) (data : Bool) : State :=
  { s with self := { s.self with rsp := some ⟨st, data⟩ } }

/-- `return OK` with data 0 (00_scope.md R10, R95). -/
def returnOk (s : State) : Result := .next (s.respond .ok false)

/-- `raise <kind>` (60_exceptions.md R240), this hardware's only exception entry: the command ends, the status is the
kind's, the data is 0, nothing else changes, and there is nothing to return from (R241). -/
def raiseError (kind : Status) (s : State) : Result := .next (s.respond kind false)

/-- The host may issue a command only when its `FILL` pass, if any, is over (R47). -/
def whenHostIdle (s : State) (r : Result) : Result :=
  if s.self.fillNext.isSome then .refused .fillInProgress else r

/-- Every command but `CONSTRUCT` is refused while `constructed = 0` (43_driver_lifecycle.md R201). -/
def whenConstructed (s : State) (r : Result) : Result :=
  whenHostIdle s (if s.self.constructed then r else .refused .unconstructed)

/-- Store a new framebuffer content, or stop with the access's fault. -/
def withFb (s : State) (m : Except Fault Memory) (k : State → Result) : Result :=
  match m with
  | .ok m => k { s with self := { s.self with fb := m } }
  | .error f => .fault f

/-! ## The `FILL` pass -/

/-- The byte `FILL` writes (40_framebuffer.md R125). -/
def fillByte (v : Bool) : Byte := if v then 0xFF else 0x00

/-- One byte write of a `FILL` pass (R125): after the last one the response is `OK`, before it the port is empty. -/
def fillWrite (p : FillPass) (s : State) : Result :=
  withFb s (fbWrite s.cfg s.self.fb p.next (fillByte p.value)) fun t =>
    if p.next + 1 < t.cfg.nbytes then
      .next { t with self := { t.self with fillNext := some { p with next := p.next + 1 }, rsp := none } }
    else returnOk { t with self := { t.self with fillNext := none } }

/-- The host's next byte write, when a pass is in progress; without one it has nothing to write. -/
def continueFill (s : State) : Result :=
  match s.self.fillNext with
  | some p => fillWrite p s
  | none => .next s

end Sys2Proof.Machine
end

