-- ==== Sys2Proof/Machine/Operands.lean ====
section
/-! DEFINITION. The two ways to address the framebuffer (20_memory.md R60, R61), the bit accessors (R63, R64), the row
view (40_framebuffer.md R127) and the bounds check (R121). -/

namespace Sys2Proof.Machine

/-- `index = row*W + column` (R61). -/
def pixelIndex (c : Config) (row column : Nat) : Nat := row * c.width + column

/-- `byte = index/8` (R61). -/
def pixelByte (c : Config) (row column : Nat) : Nat := pixelIndex c row column / 8

/-- `bit = index%8` (R61). -/
def pixelBit (c : Config) (row column : Nat) : Nat := pixelIndex c row column % 8

/-- The byte with index `k` of a row: `row*ROWBYTES + k` (R65, R126). -/
def rowByteAddress (c : Config) (row k : Nat) : Nat := row * c.rowBytes + k

/-- `FB.row_view(y)` (R127): the byte addresses of a row, ascending. -/
def rowView (c : Config) (y : Nat) : List Nat := (List.range c.rowBytes).map (rowByteAddress c y)

/-- Bit `k` of a byte, of weight `2^k` (R62). -/
def byteBit (v : Byte) (k : Nat) : Bool := v.getLsbD k

/-- A byte with bit `k` set or cleared (R64). -/
def setByteBit (v : Byte) (k : Nat) (b : Bool) : Byte :=
  if b then v ||| (1#8 <<< k) else v &&& ~~~(1#8 <<< k)

/-- `PixRead(r, c)` (R63). -/
def pixRead (c : Config) (m : Memory) (row column : Nat) : Except Fault Bool :=
  match fbRead c m (pixelByte c row column) with
  | .ok v => .ok (byteBit v (pixelBit c row column))
  | .error f => .error f

/-- `PixWrite(r, c, b)` (R64), one indivisible read-modify-write. -/
def pixWrite (c : Config) (m : Memory) (row column : Nat) (b : Bool) : Except Fault Memory :=
  match fbRead c m (pixelByte c row column) with
  | .ok v => fbWrite c m (pixelByte c row column) (setByteBit v (pixelBit c row column) b)
  | .error f => .error f

/-- `in_range` of the pixel commands (R121). -/
def pixelInRange (c : Config) (x : BitVec 16) (y : BitVec 12) : Bool :=
  decide (x.toNat < c.width) && decide (y.toNat < c.height)

/-- `in_range` of `WRITE_ROW_BYTE` (R121). -/
def rowByteInRange (c : Config) (y : BitVec 12) (k : BitVec 8) : Bool :=
  decide (y.toNat < c.height) && decide (k.toNat < c.rowBytes)

/-- An out-of-range write under `OOB_POLICY` (R121): an error, or silently nothing. -/
def outOfRangeWrite (s : State) : Result :=
  match s.cfg.oobPolicy with
  | .fail => raiseError .outOfBounds s
  | .clip => returnOk s

end Sys2Proof.Machine
end

