-- ==== Sys2Proof/Machine/FrameBuffer.lean ====
section
/-! DEFINITION. The meanings of the FrameBuffer commands (40_framebuffer.md R120 to R126). -/

namespace Sys2Proof.Machine

/-- What the two pixel writes share (R122, R123): the checks, then one atomic bit write, then `OK`. -/
def writePixel (b : Bool) (x : BitVec 16) (y : BitVec 12) (s : State) : Result :=
  whenConstructed s
    (if pixelInRange s.cfg x y then withFb s (pixWrite s.cfg s.self.fb y.toNat x.toNat b) returnOk
     else outOfRangeWrite s)

/-- `SET_PIXEL x, y` (R122). -/
def execSetPixel (x : BitVec 16) (y : BitVec 12) (s : State) : Result := writePixel true x y s

/-- `CLEAR_PIXEL x, y` (R123). -/
def execClearPixel (x : BitVec 16) (y : BitVec 12) (s : State) : Result := writePixel false x y s

/-- `GET_PIXEL x, y` (R124): out of range is an error under both policies. -/
def execGetPixel (x : BitVec 16) (y : BitVec 12) (s : State) : Result :=
  whenConstructed s
    (if pixelInRange s.cfg x y then
       match pixRead s.cfg s.self.fb y.toNat x.toNat with
       | .ok b => .next (s.respond .ok b)
       | .error f => .fault f
     else raiseError .outOfBounds s)

/-- `FILL v` (R125): the first of its `NBYTES` byte writes; the rest of the pass is `continueFill` (log entry 9). -/
def execFill (v : BitVec 1) (s : State) : Result :=
  whenConstructed s (fillWrite { value := v == 1, next := 0 } s)

/-- `WRITE_ROW_BYTE y, k, d` (R126). -/
def execWriteRowByte (y : BitVec 12) (k d : BitVec 8) (s : State) : Result :=
  whenConstructed s
    (if rowByteInRange s.cfg y k then
       withFb s (fbWrite s.cfg s.self.fb (rowByteAddress s.cfg y.toNat k.toNat) d) returnOk
     else outOfRangeWrite s)

end Sys2Proof.Machine
end

