-- ==== Sys2Proof/Machine/Flags.lean ====
section
/-! DEFINITION. The derived conditions and levels, functions of the stored position (10_state.md R32, R36;
41_timing_controller.md R144, R145, R146, R150). The hardware has no arithmetic flags (R36). -/

namespace Sys2Proof.Machine

/-- The frame phase (R146). -/
inductive Phase where
  | activeVideo
  | verticalSync
  | blanking
deriving DecidableEq, Repr

/-- `h_window`: `H0 ≤ hcount < H0 + H_ACTIVE` (R36). -/
def hWindow (c : Config) (h : Nat) : Bool := decide (c.h0 ≤ h) && decide (h < c.h0 + c.hActive)

/-- `v_window`: `V0 ≤ vcount < V0 + V_ACTIVE` (R36). -/
def vWindow (c : Config) (v : Nat) : Bool := decide (c.v0 ≤ v) && decide (v < c.v0 + c.vActive)

/-- `video_window` (R36): the active window. -/
def videoWindow (c : Config) (v h : Nat) : Bool := hWindow c h && vWindow c v

/-- The pixel periods in which a row's `W` pixels go out: `H0 ≤ hcount < H0 + W` (42_scanout_engine.md R171). -/
def pixelPeriod (c : Config) (h : Nat) : Bool := decide (c.h0 ≤ h) && decide (h < c.h0 + c.width)

/-- `phase(v)` (R146). -/
def phase (c : Config) (v : Nat) : Phase :=
  if v < c.vSync then .verticalSync
  else if vWindow c v then .activeVideo
  else .blanking

/-- `hs_level(h)` (R144). -/
def hsLevel (c : Config) (h : Nat) : Level :=
  Level.drive (if h < c.hSync then c.syncActive else c.syncInactive)

/-- `vs_level(v)` (R145). -/
def vsLevel (c : Config) (v : Nat) : Level :=
  Level.drive (if v < c.vSync then c.syncActive else c.syncInactive)

/-- `lb`: the line-boundary signal fires in the TICK whose new `hcount` is `LB_LATENCY`, 0 here (R147, R150). It is an
event, not state (R245). -/
def lineBoundary (c : Config) (h : Nat) : Bool := h == c.lbLatency

/-- The colour level of a pixel (42_scanout_engine.md R171, R175). -/
def colorLevel (c : Config) (on : Bool) : Level := Level.drive (if on then c.colorActive else c.colorInactive)

/-- The three pin levels of an instance, observed after every TICK (70_reset_and_hazards.md R293). -/
def Driver.pins (d : Driver) : Level × Level × Level := (d.pinHsync, d.pinVsync, d.pinColor)

/-- The linear position `vcount * H_TOTAL + hcount` (R32). -/
def Driver.position (c : Config) (d : Driver) : Nat := d.vcount.toNat * c.hTotal + d.hcount.toNat

end Sys2Proof.Machine
end

