-- ==== Sys2Proof/Machine/ScanoutEngine.lean ====
section
/-! DEFINITION. The ScanoutEngine (42_scanout_engine.md): its share of a TICK under each fetch policy (R171, R185), arm
(R180) and disarm (R181). -/

namespace Sys2Proof.Machine

/-- Begin of a row, the reaction to the line-boundary signal (R172); no byte of the new line is fetched yet (R185). -/
def seBegin (c : Config) (d : Driver) : Driver :=
  if lineBoundary c d.hcount.toNat then
    if vWindow c d.vcount.toNat then
      { d with scanBusy := true, scanLine := BitVec.ofNat 9 (d.vcount.toNat - c.v0), fetched := [] }
    else { d with scanBusy := false, fetched := [] }
  else d

/-- The address of the byte with index `k` of the row being served (R171). -/
def scanAddress (c : Config) (d : Driver) (k : Nat) : Nat := rowByteAddress c d.scanLine.toNat k

/-- The byte fetch under `JIT` (R174): in the TICK that shows column `8k`, byte `k` goes to `shreg`. -/
def fetchJit (c : Config) (d : Driver) : Except Fault Driver :=
  if d.scanBusy && pixelPeriod c d.hcount.toNat && (d.hcount.toNat - c.h0) % 8 == 0 then
    match fbRead c d.fb (scanAddress c d ((d.hcount.toNat - c.h0) / 8)) with
    | .ok v => .ok { d with shreg := v }
    | .error f => .error f
  else .ok d

/-- Read the bytes with the given indices of the row being served into the latch, in order (R185). -/
def latchBytes (c : Config) (d : Driver) : List Nat → Memory → Except Fault Memory
  | [], buf => .ok buf
  | k :: ks, buf =>
    match fbRead c d.fb (scanAddress c d k) with
    | .ok v => latchBytes c d ks (buf.write k v)
    | .error f => .error f

/-- The fetch under `ROW_LATCH` (R185): in the line-boundary TICK of an active-video line, the whole row. -/
def fetchRow (c : Config) (d : Driver) : Except Fault Driver :=
  if lineBoundary c d.hcount.toNat && d.scanBusy then
    match latchBytes c d (List.range c.rowBytes) d.rowbuf with
    | .ok buf => .ok { d with rowbuf := buf }
    | .error f => .error f
  else .ok d

/-- Under `ANY`, whether this TICK reads byte `k`: a free choice (draw `n`), but at the latest in the TICK that shows
column `8k` (R78, R185). -/
def picksByte (c : Config) (n : Nat) (d : Driver) (k : Nat) : Bool :=
  Config.fetchNow n k || d.hcount.toNat == c.h0 + 8 * k

/-- The indices of the bytes this TICK reads under `ANY`: not yet fetched in this line, and picked (R185). -/
def fetchesAny (c : Config) (n : Nat) (d : Driver) : List Nat :=
  (List.range c.rowBytes).filter fun k => !d.fetched.contains k && picksByte c n d k

/-- The fetch under `ANY` (R185). -/
def fetchAny (c : Config) (n : Nat) (d : Driver) : Except Fault Driver :=
  if d.scanBusy then
    match latchBytes c d (fetchesAny c n d) d.rowbuf with
    | .ok buf => .ok { d with
        rowbuf := buf,
        fetched := (List.range c.rowBytes).filter fun k => d.fetched.contains k || picksByte c n d k }
    | .error f => .error f
  else .ok d

/-- The fetch of this TICK by `FETCH_POLICY` (R78). -/
def seFetch (c : Config) (n : Nat) (d : Driver) : Except Fault Driver :=
  match c.fetchPolicy with
  | .jit => fetchJit c d
  | .rowLatch => fetchRow c d
  | .any => fetchAny c n d

/-- The latched byte that holds the pixel of a column (R171, R185). -/
def latchedByte (c : Config) (d : Driver) (col : Nat) : Byte :=
  match c.fetchPolicy with
  | .jit => d.shreg
  | .rowLatch => d.rowbuf.read (col / 8)
  | .any => d.rowbuf.read (col / 8)

/-- The latched pixel of a column: bit `col mod 8` of its byte (R175). -/
def latchedPixel (c : Config) (d : Driver) (col : Nat) : Bool := byteBit (latchedByte c d col) (col % 8)

/-- The level the colour pin takes (R175). -/
def scanLevel (c : Config) (d : Driver) : Level :=
  if d.scanBusy && pixelPeriod c d.hcount.toNat then colorLevel c (latchedPixel c d (d.hcount.toNat - c.h0))
  else colorLevel c false

/-- The colour output of this TICK (R175). -/
def seShow (c : Config) (d : Driver) : Driver := { d with pinColor := scanLevel c d }

/-- End of a row (R176). -/
def seEnd (c : Config) (d : Driver) : Driver :=
  if d.scanBusy && d.hcount.toNat == c.h0 + c.width then { d with scanBusy := false } else d

/-- `SE.tick` (R171) at the position the instance already holds; `n` numbers the free choices of `ANY`. -/
def seTick (c : Config) (n : Nat) (d : Driver) : Except Fault Driver :=
  match seFetch c n (seBegin c d) with
  | .ok d => .ok (seEnd c (seShow c d))
  | .error f => .error f

/-- `SE.arm()` (R180): all checks before all claims. -/
def seArm (c : Config) (P : Pool) (d : Driver) : Except Status (Pool × Driver) :=
  if P.holds d.cfgColPin then .error .pinConflict
  else if P.freeOutput < c.seChannels then .error .resourceExhausted
  else .ok ((P.claimPin d.cfgColPin).claimOutput c.seChannels,
    { d with scanBusy := false, pinColor := colorLevel c false, seArmed := true })

/-- `SE.disarm()` (R181): a no-op when already disarmed; takes effect at once (R183). -/
def seDisarm (c : Config) (P : Pool) (d : Driver) : Pool × Driver :=
  if d.seArmed then
    ((P.releasePin d.cfgColPin).releaseOutput c.seChannels,
      { d with seArmed := false, scanBusy := false, pinColor := .z })
  else (P, d)

end Sys2Proof.Machine
end

