-- ==== Sys2Proof/Machine/TimingController.lean ====
section
/-! DEFINITION. The TimingController (41_timing_controller.md): the autonomous step TICK (R147, R158), configure (R141),
arm (R152) and disarm (R153). -/

namespace Sys2Proof.Machine

/-- The position after one more pixel period, wrapping at `H_TOTAL` and `V_TOTAL`, with the sync levels of the period
that begins (R147). -/
def advancePosition (c : Config) (d : Driver) : Driver :=
  let h : BitVec 10 := if d.hcount.toNat = c.hTotal - 1 then 0 else d.hcount + 1
  let v : BitVec 10 :=
    if d.hcount.toNat = c.hTotal - 1 then (if d.vcount.toNat = c.vTotal - 1 then 0 else d.vcount + 1)
    else d.vcount
  { d with hcount := h, vcount := v, pinHsync := hsLevel c h.toNat, pinVsync := vsLevel c v.toNat }

/-- `TICK` of one instance (R147): nothing while `tc_armed = 0` (R158). -/
def tick (c : Config) (n : Nat) (d : Driver) : Except Fault Driver :=
  if d.tcArmed then
    if d.seArmed then seTick c n (advancePosition c d) else .ok (advancePosition c d)
  else .ok d

/-- `TC.configure(mode)` (R141). The mode descriptor is constant (R25, R142). -/
def tcConfigure (c : Config) (mode : BitVec 4) (d : Driver) : Except Status Driver :=
  if mode = c.modeVga640 then .ok { d with cfgMode := mode } else .error .modeUnsupported

/-- `TC.arm()` (R152): all checks before all claims. The line-boundary signal it emits for line 0 has no subscriber, and
is no state (R245). -/
def tcArm (c : Config) (P : Pool) (d : Driver) : Except Status (Pool × Driver) :=
  if P.freeTiming < c.tcChannels then .error .resourceExhausted
  else if P.holds d.cfgHsPin then .error .pinConflict
  else if P.holds d.cfgVsPin || d.cfgVsPin == d.cfgHsPin then .error .pinConflict
  else .ok (((P.claimTiming c.tcChannels).claimPin d.cfgHsPin).claimPin d.cfgVsPin,
    { d with hcount := 0, vcount := 0, pinHsync := hsLevel c 0, pinVsync := vsLevel c 0, tcArmed := true })

/-- `TC.disarm()` (R153): a no-op when already disarmed. -/
def tcDisarm (c : Config) (P : Pool) (d : Driver) : Pool × Driver :=
  if d.tcArmed then
    (((P.releasePin d.cfgHsPin).releasePin d.cfgVsPin).releaseTiming c.tcChannels,
      { d with tcArmed := false, hcount := 0, vcount := 0, pinHsync := .z, pinVsync := .z })
  else (P, d)

end Sys2Proof.Machine
end

