-- ==== Sys2Proof/Machine/Lifecycle.lean ====
section
/-! DEFINITION. The meanings of the DriverLifecycle commands (43_driver_lifecycle.md R200 to R208). -/

namespace Sys2Proof.Machine

/-- `FB.alloc` and the control fields `CONSTRUCT` writes after the configuration (R128, R200). -/
def constructed (colPin hsPin vsPin : Pin) (d : Driver) : Driver :=
  { d with
    cfgColPin := colPin, cfgHsPin := hsPin, cfgVsPin := vsPin, fb := [], lcState := .idle, tcArmed := false,
    seArmed := false, scanBusy := false, hcount := 0, vcount := 0, constructed := true }

/-- `CONSTRUCT mode, col_pin, hs_pin, vs_pin` (R200). Parameters that break R8 are refused (R66). -/
def execConstruct (mode : BitVec 4) (colPin hsPin vsPin : Pin) (s : State) : Result :=
  whenHostIdle s
    (if s.self.constructed then .refused .alreadyConstructed
     else if s.cfg.wf then
       match tcConfigure s.cfg mode s.self with
       | .ok d => returnOk (s.withSelf (constructed colPin hsPin vsPin d))
       | .error e => raiseError e s
     else .refused .parameters)

/-- `DESTROY` (R202): the instance is in its reset state, "nothing survives" (60_exceptions.md R258), its framebuffer
unspecified; the pool is untouched. -/
def execDestroy (s : State) : Result :=
  whenConstructed s
    (if s.self.lcState = .running then .refused .destroyWhileRunning
     else returnOk { s with self := resetDriver s.cfg s.draws, draws := s.draws + 1 })

/-- The check of `START` step (1) (R207): the framebuffer is sized for the mode. -/
def frameBufferFits (c : Config) : Bool := c.nbytes == (c.hActive * c.vActive + 7) / 8

/-- `START` steps (2) and (3) with the rollback of a failed step (3) (R204 to R206), one atomic step (R213). -/
def startArms (s : State) : Result :=
  match tcArm s.cfg s.pool s.self with
  | .error e => raiseError e s
  | .ok (P, d) =>
    match seArm s.cfg P d with
    | .error e =>
      raiseError e { s with pool := (tcDisarm s.cfg P d).1, self := (tcDisarm s.cfg P d).2 }
    | .ok (P, d) => returnOk { s with pool := P, self := { d with lcState := .running } }

/-- `START` (R204). -/
def execStart (s : State) : Result :=
  whenConstructed s
    (if s.self.lcState = .running then raiseError .alreadyRunning s
     else if frameBufferFits s.cfg then startArms s
     else .refused .frameBufferSize)

/-- Both disarms of `STOP`, ScanoutEngine first (R208). -/
def stopArms (c : Config) (P : Pool) (d : Driver) : Pool × Driver :=
  tcDisarm c (seDisarm c P d).1 (seDisarm c P d).2

/-- `STOP` (R208), one atomic step (R213). -/
def execStop (s : State) : Result :=
  whenConstructed s
    (if s.self.lcState = .running then
       returnOk { s with
         pool := (stopArms s.cfg s.pool s.self).1,
         self := { (stopArms s.cfg s.pool s.self).2 with lcState := .idle } }
     else raiseError .notRunning s)

end Sys2Proof.Machine
end

