-- ==== Sys2Proof/Machine/Dispatch.lean ====
section
/-! DEFINITION. The meaning of each command: one arm per constructor of `Instr`. -/

namespace Sys2Proof.Machine

def exec (i : Instr) (s : State) : Host.Outcome State Fault Refusal :=
  match i with
  | .construct mode colPin hsPin vsPin => Sys2Proof.Machine.execConstruct mode colPin hsPin vsPin s
  | .destroy => Sys2Proof.Machine.execDestroy s
  | .start => Sys2Proof.Machine.execStart s
  | .stop => Sys2Proof.Machine.execStop s
  | .setPixel x y => Sys2Proof.Machine.execSetPixel x y s
  | .clearPixel x y => Sys2Proof.Machine.execClearPixel x y s
  | .getPixel x y => Sys2Proof.Machine.execGetPixel x y s
  | .fill v => Sys2Proof.Machine.execFill v s
  | .writeRowByte y k d => Sys2Proof.Machine.execWriteRowByte y k d s

end Sys2Proof.Machine
end

