-- ==== Sys2Proof/Machine/Schedule.lean ====
section
/-! DEFINITION. What one step is (00_scope.md R12, 20_memory.md R76): the next scheduled event, or, when none is left, a
rising edge of the pixel clock at every instance. Device reset (70_reset_and_hazards.md R270), the command port (30_encoding.md
R91), the running of a pseudo-command (R100), and a run with what is observed of it (R293) stand here too. -/

namespace Sys2Proof.Machine

/-- How many free values a TICK draws: one per TICK under `ANY` (R185; log entry 6). -/
def drawsPerTick (c : Config) : Nat :=
  match c.fetchPolicy with
  | .jit => 0
  | .rowLatch => 0
  | .any => 1

/-- The command port (R91): a reserved word is refused in every state (R97). -/
def perform (w : Word) (s : State) : Result :=
  match decode w with
  | .ok i => exec i s
  | .error why => .refused (.reservedWord why)

/-- A TICK of the addressed instance (R147). -/
def tickSelf (s : State) : Result :=
  match tick s.cfg s.draws s.self with
  | .ok d => .next { s with self := d, draws := s.draws + drawsPerTick s.cfg }
  | .error f => .fault f

/-- One action of the addressed instance. -/
def act (a : Action) (s : State) : Result :=
  match a with
  | .command w => perform w s
  | .fillWrite => continueFill s
  | .tick => tickSelf s

/-- Do something at the instance with the given number: 0 is `self`, k+1 the k-th peer. -/
def atInstance (inst : Nat) (f : State → Result) (s : State) : Result :=
  match inst with
  | 0 => f s
  | k + 1 =>
    match s.peers[k]? with
    | none => .refused (.noSuchInstance (k + 1))
    | some d =>
      match f (s.withSelf d) with
      | .next t => .next { t with self := s.self, peers := s.peers.set k t.self }
      | .fault e => .fault e
      | .refused r => .refused r

/-- The peers after device reset, each with a draw of its own. -/
def resetPeers (c : Config) : Nat → List Driver → List Driver
  | _, [] => []
  | n, _ :: ds => resetDriver c n :: resetPeers c (n + 1) ds

/-- Device reset (R270, R271): every instance and the pool, from any state, at once. -/
def deviceReset (s : State) : State :=
  { s with
    pool := Pool.reset s.cfg, self := resetDriver s.cfg s.draws, peers := resetPeers s.cfg (s.draws + 1) s.peers,
    draws := s.draws + 1 + s.peers.length }

/-- One scheduled event. -/
def happen (e : Event) (s : State) : Result :=
  match e with
  | .act inst a => atInstance inst (act a) s
  | .reset => .next (deviceReset s)

/-- A TICK of each peer in turn, each with draws of its own. -/
def tickPeers (c : Config) : Nat → List Driver → Except Fault (List Driver)
  | _, [] => .ok []
  | n, d :: ds =>
    match tick c n d with
    | .error f => .error f
    | .ok d =>
      match tickPeers c (n + drawsPerTick c) ds with
      | .error f => .error f
      | .ok ds => .ok (d :: ds)

/-- A rising edge of the pixel clock at every instance (R154: it needs nothing from any host). -/
def clockEdge (s : State) : Result :=
  match tick s.cfg s.draws s.self with
  | .error f => .fault f
  | .ok d =>
    match tickPeers s.cfg (s.draws + drawsPerTick s.cfg) s.peers with
    | .error f => .fault f
    | .ok ds =>
      .next { s with self := d, peers := ds, draws := s.draws + drawsPerTick s.cfg * (s.peers.length + 1) }

/-- The next step of the device: the first scheduled event, or the pixel clock when none is left (log entry 1). -/
def advance (s : State) : Result :=
  match s.input with
  | [] => clockEdge s
  | e :: es => happen e { s with input := es }

/-! ## Runs -/

/-- One step of a run. A refused step "is not the end of a run" (70_reset_and_hazards.md R293): its event is spent and
nothing else changes (93_implementation_defined.md V1). -/
def proceed (s : State) : Except Fault State :=
  match advance s with
  | .next t => .ok t
  | .fault f => .error f
  | .refused _ => .ok { s with input := s.input.tail }

/-- What is observed of a run (R293): the response to a command of an instance, and an instance's pins after a TICK. -/
inductive Observation where
  | response (inst : Nat) (r : Response)
  | pins (inst : Nat) (levels : Level × Level × Level)
deriving DecidableEq, Repr

/-- The instance with the given number: 0 is `self`, k+1 the k-th peer. -/
def State.driverAt (s : State) (inst : Nat) : Option Driver :=
  match inst with
  | 0 => some s.self
  | k + 1 => s.peers[k]?

/-- The response on an instance's port, if any. -/
def showResponse (s : State) (inst : Nat) : List Observation :=
  (((s.driverAt inst).bind Driver.rsp).map (Observation.response inst)).toList

/-- The pins of an instance. -/
def showPins (s : State) (inst : Nat) : List Observation :=
  ((s.driverAt inst).map fun d => Observation.pins inst d.pins).toList

/-- The instance with the given number has a `FILL` pass in progress. -/
def fillInProgress (s : State) (inst : Nat) : Bool := ((s.driverAt inst).bind Driver.fillNext).isSome

/-- What an event shows, before which the state is `s` and after which it is `t` (R293). The response of a `FILL` shows
at the last byte write of its pass (R125). -/
def eventShows (s t : State) : Event → List Observation
  | .act inst (.command _) => showResponse t inst
  | .act inst .fillWrite => if fillInProgress s inst then showResponse t inst else []
  | .act inst .tick => showPins t inst
  | .reset => []

/-- What one step of a run shows: a refused step nothing, since its answer "is not one of the seven status codes" (V1);
a clock edge the pins of every instance. -/
def stepShows (s : State) : List Observation :=
  match advance s with
  | .next t =>
    match s.input with
    | [] => (List.range (t.peers.length + 1)).flatMap (showPins t)
    | e :: _ => eventShows s t e
  | .fault _ => []
  | .refused _ => []

/-- The observation of a run of the given number of steps (R293). -/
def observations : Nat → State → List Observation
  | 0, _ => []
  | k + 1, s =>
    match proceed s with
    | .ok t => stepShows s ++ observations k t
    | .error _ => []

/-! ## Presenting commands -/

/-- Present a command word at the front of the schedule, to the addressed instance. -/
def present (w : Word) (s : State) : State := { s with input := .act 0 (.command w) :: s.input }

/-- The command just performed answered `OK`. -/
def answeredOk (s : State) : Bool :=
  match s.self.rsp with
  | some r => r.status == .ok
  | none => false

/-- Perform commands in order; "fails at the first expanded command that fails and performs none after it" (R100). A
`FILL` pass in progress leaves its response open, and the commands after it to the host. -/
def performAll : List Instr → State → Result
  | [], s => .next s
  | i :: is, s =>
    match exec i s with
    | .next t => if answeredOk t then performAll is t else .next t
    | .fault f => .fault f
    | .refused r => .refused r

/-- A pseudo-command (R100). -/
def performPseudo (p : Pseudo) (s : State) : Result := performAll p.expand s

end Sys2Proof.Machine
end

