-- ==== Sys2Proof/Machine/Step.lean ====
section
/-! DEFINITION. The step of the machine, and the presenting of a command word to it. -/

namespace Sys2Proof.Machine

/-- One atomic step (00_scope.md R12). -/
def step (s : State) : Host.Outcome State Fault Refusal := Sys2Proof.Machine.advance s

/-- `s` with a command word presented by the host of the addressed instance as the next event (log entry 5). -/
def State.withFetchWord (s : State) (nbits w : Nat) : State := Sys2Proof.Machine.present (tableWord nbits w) s

end Sys2Proof.Machine
end

