-- ==== Sys2Proof/Safety.lean ====
section
/-! DEFINITION. What the claims speak of: the invariants of a driver instance (10_state.md R28, R30, R31, R47;
41_timing_controller.md R144, R145; 42_scanout_engine.md R175, R179), the conservation law of the pool (60_exceptions.md
R254), and runs (70_reset_and_hazards.md R293). -/

namespace Sys2Proof.Machine

/-- The invariants of one driver instance, kept by every step. -/
structure Driver.Inv (c : Config) (d : Driver) : Prop where
  /-- The framebuffer is in canonical form and lists only addresses below `NBYTES` (R67). -/
  memory : d.fb.wf = true ∧ d.fb.below c.nbytes = true
  /-- R35, R185: the latch of a row and the set of fetched indices keep to the row's bytes, in canonical form. -/
  latches : d.rowbuf.wf = true ∧ d.rowbuf.below c.rowBytes = true ∧ d.fetched.Pairwise (· < ·) ∧
    ∀ k ∈ d.fetched, k < c.rowBytes
  /-- R28 (a), R47, R202, R258: an unconstructed instance is in its reset state, but for the unspecified framebuffer and
  the response on its port. -/
  unbuilt : d.constructed = false → { d with fb := [], rsp := none } = Driver.reset
  /-- R8, R23: a constructed instance has the supported mode. -/
  mode : d.constructed = true → c.wf = true ∧ d.cfgMode = c.modeVga640
  /-- R28 (b). -/
  running : d.lcState = .running ↔ d.tcArmed = true ∧ d.seArmed = true
  /-- R28 (c). -/
  idle : d.lcState = .idle → d.tcArmed = false ∧ d.seArmed = false
  /-- R30, R31, R40 while the TimingController is not armed. -/
  disarmed : d.tcArmed = false → d.hcount = 0 ∧ d.vcount = 0 ∧ d.pinHsync = .z ∧ d.pinVsync = .z
  /-- R30, R31, R144, R145 while it is armed. -/
  armed : d.tcArmed = true →
    d.hcount.toNat < c.hTotal ∧ d.vcount.toNat < c.vTotal ∧
    d.pinHsync = hsLevel c d.hcount.toNat ∧ d.pinVsync = vsLevel c d.vcount.toNat
  /-- R41 while the ScanoutEngine is not armed. -/
  released : d.seArmed = false → d.pinColor = .z ∧ d.scanBusy = false
  /-- R173 and, from the line-boundary signal on, the tracking invariant R179. -/
  tracking : d.scanBusy = true →
    d.seArmed = true ∧ d.tcArmed = true ∧ d.scanLine.toNat < c.height ∧
    (c.lbLatency ≤ d.hcount.toNat →
      c.v0 ≤ d.vcount.toNat ∧ d.vcount.toNat < c.v0 + c.vActive ∧
      d.scanLine.toNat = d.vcount.toNat - c.v0 ∧ d.hcount.toNat < c.h0 + c.width)
  /-- R175: the colour level is a function of the scanout state. -/
  colour : d.seArmed = true → d.pinColor = scanLevel c d
  /-- R47: the next address of a `FILL` pass exists. -/
  filling : ∀ p, d.fillNext = some p → p.next < c.nbytes

/-- The driver instances of a device. -/
def State.drivers (s : State) : List Driver := s.self :: s.peers

/-- Every instance meets its invariants. -/
def State.DriversInv (s : State) : Prop := ∀ d ∈ s.drivers, d.Inv s.cfg

/-- All pins claimed by all instances (R254). -/
def State.claimedPins (s : State) : List Pin := s.drivers.flatMap Driver.claimedPins

/-- Conservation (R254): the pool's pins are the disjoint union of the instances' claims, and every channel is either
free or held by an armed instance. -/
structure State.PoolInv (s : State) : Prop where
  /-- The set of pins is in canonical form. -/
  rising : s.pool.pins.Pairwise (· < ·)
  disjoint : s.claimedPins.Nodup
  union : ∀ p, p ∈ s.pool.pins ↔ p ∈ s.claimedPins
  timing : s.pool.freeTiming + (s.drivers.map (Driver.claimedTiming s.cfg)).sum = s.cfg.poolTiming
  output : s.pool.freeOutput + (s.drivers.map (Driver.claimedOutput s.cfg)).sum = s.cfg.poolOutput

/-- The state of an instance's pixel clock: a run of TICKs of one instance, stopping at a fault. -/
def tickTimes (c : Config) : Nat → Nat → Driver → Except Fault Driver
  | 0, _, d => .ok d
  | k + 1, n, d =>
    match tick c n d with
    | .ok d => tickTimes c k (n + drawsPerTick c) d
    | .error f => .error f

/-- A run of a number of steps (R293): it goes on after a refused step and stops at a fault only. -/
def runSteps : Nat → State → Except Fault State
  | 0, s => .ok s
  | k + 1, s =>
    match proceed s with
    | .ok t => runSteps k t
    | .error f => .error f

/-- The run of the scheduled events of a state, one step each. -/
def runInput (s : State) : Except Fault State := runSteps s.input.length s

end Sys2Proof.Machine
end

