-- ==== Sys2Proof/Certificates/Slice0/Obligations.lean ====
section
/-! DEFINITION. The statements for the provers. Each docstring names the rules of spec/ it formalises. A hypothesis
`fillNext = none` says that the host is not in the middle of its own `FILL` pass, when it can issue no command at all
(10_state.md R47); `cfg.wf` says that the parameters keep the constraints of 00_scope.md R8. -/

open Sys2Proof Sys2Proof.Machine

/-! ## Encoding -/

/-- 30_encoding.md R102: the worked encodings, both ways, and the reserved examples by the name of their fault. -/
def Obligations.WorkedEncodings : Prop :=
  (encode (.construct 0 2 0 1) = 0x10001002 ∧ decode 0x10001002 = .ok (.construct 0 2 0 1)) ∧
  (encode .destroy = 0x20000000 ∧ decode 0x20000000 = .ok .destroy) ∧
  (encode .start = 0x30000000 ∧ decode 0x30000000 = .ok .start) ∧
  (encode .stop = 0x40000000 ∧ decode 0x40000000 = .ok .stop) ∧
  (encode (.setPixel 0 0) = 0x50000000 ∧ decode 0x50000000 = .ok (.setPixel 0 0)) ∧
  (encode (.setPixel 639 479) = 0x51DF027F ∧ decode 0x51DF027F = .ok (.setPixel 639 479)) ∧
  (encode (.clearPixel 639 479) = 0x61DF027F ∧ decode 0x61DF027F = .ok (.clearPixel 639 479)) ∧
  (encode (.getPixel 639 479) = 0x71DF027F ∧ decode 0x71DF027F = .ok (.getPixel 639 479)) ∧
  (encode (.fill 1) = 0x80000001 ∧ decode 0x80000001 = .ok (.fill 1)) ∧
  (encode (.fill 0) = 0x80000000 ∧ decode 0x80000000 = .ok (.fill 0)) ∧
  (encode (.writeRowByte 1 79 0xA5) = 0x90014FA5 ∧ decode 0x90014FA5 = .ok (.writeRowByte 1 79 0xA5)) ∧
  decode 0x00000000 = .error (.unassignedOp 0x0) ∧ decode 0x30000001 = .error (.mustBeZero 0x3) ∧
  decode 0x80000002 = .error (.mustBeZero 0x8) ∧ decode 0x10041002 = .error (.mustBeZero 0x1) ∧
  decode 0xA0000000 = .error (.unassignedOp 0xA)

/-- R94, R96: a word decodes to a row's command if and only if `(w and mask) = match` for that row. -/
def Obligations.WordIsCommandIffRowMatches : Prop :=
  ∀ (w : Word) (r : OpRow), r ∈ opcodeMap → (r.hits w = true ↔ ∃ i, decode w = .ok i ∧ i.row = r)

/-- R97: the reserved words are exactly those with an unassigned `op` and those of format C, N or V with a non-zero
must-be-zero bit, and the machine refuses every one of them in every state, at every instance; the refusal is not the end
of a run: its event is spent and nothing else changes (70_reset_and_hazards.md R293). -/
def Obligations.ReservedWordsRefused : Prop :=
  ∀ w : Word,
    ((w.extractLsb' 28 4 ∈ [0x0#4, 0xA#4, 0xB#4, 0xC#4, 0xD#4, 0xE#4, 0xF#4] ∨
      (w.extractLsb' 28 4 = 0x1#4 ∧ w.extractLsb' 18 6 ≠ 0) ∨
      (w.extractLsb' 28 4 ∈ [0x2#4, 0x3#4, 0x4#4] ∧ w.extractLsb' 0 28 ≠ 0) ∨
      (w.extractLsb' 28 4 = 0x8#4 ∧ w.extractLsb' 1 27 ≠ 0)) ↔ ∃ why, decode w = .error why) ∧
    (∀ (why : Reserved) (s : State) (es : List Event), decode w = .error why → s.input = .act 0 (.command w) :: es →
      step s = .refused (.reservedWord why) ∧ proceed s = .ok { s with input := es }) ∧
    ∀ (why : Reserved) (s : State) (k : Nat) (es : List Event), decode w = .error why →
      s.input = .act (k + 1) (.command w) :: es → k < s.peers.length →
      step s = .refused (.reservedWord why) ∧ proceed s = .ok { s with input := es }

/-- R92, R93, R96: no bit of an operand is lost: every command decodes from its own encoding. -/
def Obligations.DecodeEncode : Prop := ∀ i : Instr, decode (encode i) = .ok i

/-- R92, R96: a word that decodes is the encoding of what it decodes to. -/
def Obligations.EncodeDecode : Prop := ∀ (w : Word) (i : Instr), decode w = .ok i → encode i = w

/-- R91, R96: a step whose next event is a command word runs the decoded command, at the addressed instance; at a peer
the instance in focus keeps its state and the peer's place takes the result. -/
def Obligations.StepRunsDecodedCommand : Prop :=
  (∀ (s : State) (w : Word) (i : Instr) (es : List Event),
    s.input = .act 0 (.command w) :: es → decode w = .ok i → step s = exec i { s with input := es }) ∧
  (∀ (s : State) (k : Nat) (d : Driver) (w : Word) (i : Instr) (es : List Event),
    s.input = .act (k + 1) (.command w) :: es → s.peers[k]? = some d → decode w = .ok i →
    (∀ t, exec i { s with input := es, self := d } = .next t →
      step s = .next { t with self := s.self, peers := s.peers.set k t.self }) ∧
    (∀ f, exec i { s with input := es, self := d } = .fault f → step s = .fault f) ∧
    (∀ r, exec i { s with input := es, self := d } = .refused r → step s = .refused r)) ∧
  (∀ (s : State) (w : Word) (i : Instr), decode w = .ok i → step (s.withFetchWord 32 w.toNat) = exec i s)

/-! ## Reset and the invariants -/

/-- 70_reset_and_hazards.md R270, R271: device reset, from any state and whatever was in progress, leaves every instance
and the pool at the values of 10_state.md R50; all pins go to Z at once. -/
def Obligations.DeviceResetValues : Prop :=
  ∀ (s : State) (es : List Event), s.input = .reset :: es →
    ∃ t, step s = .next t ∧ t.cfg = s.cfg ∧ t.input = es ∧ t.peers.length = s.peers.length ∧
      t.pool.pins = [] ∧ t.pool.freeTiming = s.cfg.poolTiming ∧ t.pool.freeOutput = s.cfg.poolOutput ∧
      ∀ d ∈ t.drivers, d.constructed = false ∧ d.lcState = .idle ∧ d.cfgMode = 0 ∧ d.cfgColPin = 0 ∧ d.cfgHsPin = 0 ∧
        d.cfgVsPin = 0 ∧ d.tcArmed = false ∧ d.seArmed = false ∧ d.hcount = 0 ∧ d.vcount = 0 ∧ d.scanBusy = false ∧
        d.scanLine = 0 ∧ d.shreg = 0 ∧ d.pinHsync = .z ∧ d.pinVsync = .z ∧ d.pinColor = .z ∧ d.claimedPins = [] ∧
        d.fillNext = none

/-- R28, R50, R254: right after reset every instance meets its invariants and the pool its conservation law. -/
def Obligations.ResetMeetsInvariants : Prop :=
  ∀ (c : Config) (n : Nat), (State.resetOf c n).DriversInv ∧ (State.resetOf c n).PoolInv

/-- R28, R30, R31, R47, R144, R145, R173, R175, R179: every step keeps the invariants of every instance. -/
def Obligations.StepKeepsDriverInvariants : Prop :=
  ∀ s t : State, s.DriversInv → step s = .next t → t.DriversInv

/-- 20_memory.md R68, R77: no step ever leaves the framebuffer's address space; so a run goes on from every state for any
number of steps, refused ones among them: no state is stuck (70_reset_and_hazards.md R293). -/
def Obligations.StepNeverFaults : Prop :=
  (∀ (s : State) (f : Fault), s.DriversInv → step s ≠ .fault f) ∧
  ∀ (s : State) (k : Nat), s.DriversInv → ∃ t, runSteps k s = .ok t ∧ t.DriversInv

/-- 60_exceptions.md R254: every step keeps the pool's pins the disjoint union of the instances' claims, and every
channel free or held by an armed instance. -/
def Obligations.StepKeepsPoolConservation : Prop :=
  ∀ s t : State, s.DriversInv → s.PoolInv → step s = .next t → t.PoolInv

/-- R25, R75: no step changes the parameters, and so none resizes the framebuffer; no instance appears or vanishes. -/
def Obligations.ConfigurationNeverChanges : Prop :=
  ∀ s t : State, step s = .next t → t.cfg = s.cfg ∧ t.peers.length = s.peers.length

/-! ## DriverLifecycle -/

/-- R200, R128, R51: `CONSTRUCT` of the supported mode completes; the buffer is all clear, nothing is claimed or driven,
and every field the pseudocode does not name keeps its value (the model's choice in states no run reaches: log entry 10).
In a state that meets the invariants every field but those R51 names is at its reset value. -/
def Obligations.ConstructCompletes : Prop :=
  ∀ (s : State) (mode : BitVec 4) (col hs vs : Pin),
    s.self.fillNext = none → s.self.constructed = false → s.cfg.wf = true → mode = s.cfg.modeVga640 →
    ∃ t, exec (.construct mode col hs vs) s = .next t ∧
      t.self.rsp = some ⟨.ok, false⟩ ∧ t.self.constructed = true ∧ t.self.lcState = .idle ∧ t.self.cfgMode = mode ∧
      t.self.cfgColPin = col ∧ t.self.cfgHsPin = hs ∧ t.self.cfgVsPin = vs ∧ (∀ a, t.self.fb.read a = 0) ∧
      t.self.tcArmed = false ∧ t.self.seArmed = false ∧ t.self.scanBusy = false ∧ t.self.hcount = 0 ∧
      t.self.vcount = 0 ∧ t.self.pins = s.self.pins ∧ t.self.scanLine = s.self.scanLine ∧
      t.self.shreg = s.self.shreg ∧ t.self.rowbuf = s.self.rowbuf ∧ t.self.fetched = s.self.fetched ∧
      t.self.fillNext = none ∧ t.pool = s.pool ∧ t.cfg = s.cfg ∧ t.peers = s.peers ∧ t.input = s.input ∧
      t.draws = s.draws ∧
      (s.self.Inv s.cfg → t.self = { Driver.reset with
        constructed := true, cfgMode := mode, cfgColPin := col, cfgHsPin := hs, cfgVsPin := vs, fb := t.self.fb,
        rsp := some ⟨.ok, false⟩ })

/-- 60_exceptions.md R232: `ModeUnsupported` comes from `CONSTRUCT` of another mode and from nothing else; the instance
stays unconstructed and nothing but the response is recorded. -/
def Obligations.UnsupportedModeRejected : Prop :=
  (∀ (s : State) (mode : BitVec 4) (col hs vs : Pin),
    s.self.fillNext = none → s.self.constructed = false → s.cfg.wf = true → mode ≠ s.cfg.modeVga640 →
    exec (.construct mode col hs vs) s = .next (s.respond .modeUnsupported false)) ∧
  (∀ (i : Instr) (s t : State) (b : Bool), exec i s = .next t → t.self.rsp = some ⟨.modeUnsupported, b⟩ →
    ∃ mode col hs vs, i = .construct mode col hs vs ∧ mode ≠ s.cfg.modeVga640)

/-- 43_driver_lifecycle.md R201: the commands the source gives no meaning in the instance's state are refused, and the run
goes on after the refusal with nothing changed (70_reset_and_hazards.md R293). That a command presented inside the host's
own `FILL` pass is refused too is the model's choice (log entry 9): 10_state.md R47 says only that the host can issue no
command then. -/
def Obligations.CommandsWithoutMeaningRefused : Prop :=
  (∀ (i : Instr) (s : State), (∀ mode col hs vs, i ≠ .construct mode col hs vs) → s.self.fillNext = none →
    s.self.constructed = false → exec i s = .refused .unconstructed) ∧
  (∀ (s : State) (mode : BitVec 4) (col hs vs : Pin), s.self.fillNext = none → s.self.constructed = true →
    exec (.construct mode col hs vs) s = .refused .alreadyConstructed) ∧
  (∀ s : State, s.self.fillNext = none → s.self.constructed = true → s.self.lcState = .running →
    exec .destroy s = .refused .destroyWhileRunning) ∧
  (∀ (i : Instr) (s : State) (p : FillPass), s.self.fillNext = some p → exec i s = .refused .fillInProgress) ∧
  ∀ (s : State) (w : Word) (i : Instr) (es : List Event) (why : Refusal),
    s.input = .act 0 (.command w) :: es → decode w = .ok i → exec i { s with input := es } = .refused why →
    proceed s = .ok { s with input := es }

/-- R202, 60_exceptions.md R258: `DESTROY` of an idle instance completes; the instance is in its reset state, nothing
survives, and nothing is released. The buffer's content is left unspecified, so nothing is said of it. -/
def Obligations.DestroyCompletes : Prop :=
  ∀ s : State, s.self.fillNext = none → s.self.constructed = true → s.self.lcState = .idle →
    ∃ t fb, exec .destroy s = .next t ∧ t.self = { Driver.reset with fb := fb, rsp := some ⟨.ok, false⟩ } ∧
      t.pool = s.pool ∧ t.cfg = s.cfg ∧ t.peers = s.peers ∧ t.input = s.input

/-- R204, R152, R180: `START` completes when the channels are free and the three pins distinct and free; the waveform
begins at the start of a frame and the claims are those of the two arms. -/
def Obligations.StartCompletes : Prop :=
  ∀ s : State, s.cfg.wf = true → s.self.fillNext = none → s.self.constructed = true → s.self.lcState = .idle →
    s.cfg.tcChannels ≤ s.pool.freeTiming → s.cfg.seChannels ≤ s.pool.freeOutput →
    s.self.cfgHsPin ∉ s.pool.pins → s.self.cfgVsPin ∉ s.pool.pins → s.self.cfgColPin ∉ s.pool.pins →
    s.self.cfgVsPin ≠ s.self.cfgHsPin → s.self.cfgColPin ≠ s.self.cfgHsPin → s.self.cfgColPin ≠ s.self.cfgVsPin →
    ∃ t, exec .start s = .next t ∧
      t.self = { s.self with
        lcState := .running, tcArmed := true, seArmed := true, hcount := 0, vcount := 0, scanBusy := false,
        pinHsync := Level.drive s.cfg.syncActive, pinVsync := Level.drive s.cfg.syncActive,
        pinColor := Level.drive s.cfg.colorInactive, rsp := some ⟨.ok, false⟩ } ∧
      (∀ p, p ∈ t.pool.pins ↔
        p ∈ s.pool.pins ∨ p = s.self.cfgHsPin ∨ p = s.self.cfgVsPin ∨ p = s.self.cfgColPin) ∧
      t.pool.freeTiming + s.cfg.tcChannels = s.pool.freeTiming ∧
      t.pool.freeOutput + s.cfg.seChannels = s.pool.freeOutput ∧
      t.cfg = s.cfg ∧ t.peers = s.peers ∧ t.input = s.input ∧ t.draws = s.draws

/-- 60_exceptions.md R247, R233, R234, R235: `START` always answers, and reports the first error that applies. -/
def Obligations.StartReportsFirstError : Prop :=
  ∀ s : State, s.cfg.wf = true → s.self.fillNext = none → s.self.constructed = true →
    ∃ t, exec .start s = .next t ∧ t.self.rsp = some ⟨
      if s.self.lcState = .running then .alreadyRunning
      else if s.pool.freeTiming < s.cfg.tcChannels then .resourceExhausted
      else if s.self.cfgHsPin ∈ s.pool.pins then .pinConflict
      else if s.self.cfgVsPin ∈ s.pool.pins ∨ s.self.cfgVsPin = s.self.cfgHsPin then .pinConflict
      else if s.self.cfgColPin ∈ s.pool.pins ∨ s.self.cfgColPin = s.self.cfgHsPin ∨
          s.self.cfgColPin = s.self.cfgVsPin then .pinConflict
      else if s.pool.freeOutput < s.cfg.seChannels then .resourceExhausted
      else .ok, false⟩

/-- 60_exceptions.md R240: an error is the whole of its effect: the status is the kind's, the data is 0, and every
field of every instance and of the pool is as before, also after the rollback of a `START` that fails at step (3). -/
def Obligations.ErrorsLeaveNoTrace : Prop :=
  ∀ (i : Instr) (s t : State) (e : Status) (b : Bool), s.self.Inv s.cfg → exec i s = .next t →
    t.self.rsp = some ⟨e, b⟩ → e ≠ .ok → t = s.respond e false

/-- 60_exceptions.md R235, R236: `START` while running and `STOP` while idle raise their error and do nothing else. -/
def Obligations.LifecycleMisuseReported : Prop :=
  (∀ s : State, s.self.fillNext = none → s.self.constructed = true → s.self.lcState = .running →
    exec .start s = .next (s.respond .alreadyRunning false)) ∧
  (∀ s : State, s.self.fillNext = none → s.self.constructed = true → s.self.lcState = .idle →
    exec .stop s = .next (s.respond .notRunning false))

/-- R208, R153, R181: `STOP` completes in every running state; pins, channels and counters are given up at once, the
framebuffer is kept. That `scanLine`, `shreg`, `rowbuf` and `fetched` keep their values too is the model's choice (log
entry 10): R51's prose calls the state equal to that after `CONSTRUCT`, and V8 lets these fields hold any value. -/
def Obligations.StopCompletes : Prop :=
  ∀ s : State, s.self.Inv s.cfg → s.pool.pins.Pairwise (· < ·) → s.self.fillNext = none →
    s.self.constructed = true → s.self.lcState = .running →
    ∃ t, exec .stop s = .next t ∧
      t.self = { s.self with
        lcState := .idle, tcArmed := false, seArmed := false, hcount := 0, vcount := 0, scanBusy := false,
        pinHsync := .z, pinVsync := .z, pinColor := .z, rsp := some ⟨.ok, false⟩ } ∧
      (∀ p, p ∈ t.pool.pins ↔
        p ∈ s.pool.pins ∧ p ≠ s.self.cfgHsPin ∧ p ≠ s.self.cfgVsPin ∧ p ≠ s.self.cfgColPin) ∧
      t.pool.freeTiming = s.pool.freeTiming + s.cfg.tcChannels ∧
      t.pool.freeOutput = s.pool.freeOutput + s.cfg.seChannels ∧
      t.cfg = s.cfg ∧ t.peers = s.peers ∧ t.input = s.input ∧ t.draws = s.draws

/-- 70_reset_and_hazards.md R285: `STOP` is enabled in every running state, whatever the position, and leaves all three
pins Z. -/
def Obligations.StopAnywhereReleasesPins : Prop :=
  ∀ s : State, s.self.Inv s.cfg → s.self.fillNext = none → s.self.lcState = .running →
    ∃ t, exec .stop s = .next t ∧ t.self.pins = (.z, .z, .z)

/-- R212: an instance leaves `Running` only by its own `STOP` or by device reset, whatever errors, commands or TICKs
occur, and its `STOP` ends the session in every running state. -/
def Obligations.OnlyStopOrResetEndsSession : Prop :=
  (∀ s t : State, s.DriversInv → step s = .next t →
    (s.self.lcState = .running → t.self.lcState ≠ .running →
      (∃ es, s.input = .reset :: es) ∨ ∃ w es, s.input = .act 0 (.command w) :: es ∧ decode w = .ok .stop) ∧
    ∀ (k : Nat) (d e : Driver), s.peers[k]? = some d → t.peers[k]? = some e → d.lcState = .running →
      e.lcState ≠ .running →
      (∃ es, s.input = .reset :: es) ∨ ∃ w es, s.input = .act (k + 1) (.command w) :: es ∧ decode w = .ok .stop) ∧
  ∀ s : State, s.self.Inv s.cfg → s.self.fillNext = none → s.self.lcState = .running →
    ∃ t, exec .stop s = .next t ∧ t.self.lcState = .idle

/-- R209, R51, R84: after a session of this instance, with any events of any host and clock in it but its own `STOP` and
device reset, a `STOP` leaves the instance as before its `START`, but for the framebuffer (which sessions draw in), the
response, and `scanLine`, `shreg`, `rowbuf` and `fetched`, which `STOP` leaves alone by the model's choice (log entry 10).
The pool holds what the other instances hold, so it is as before the `START` if nobody else changed it; and the next `START`
succeeds at the beginning of a frame. -/
def Obligations.RestartAfterCleanStop : Prop :=
  ∀ (s t u : State) (es : List Event), s.DriversInv → s.PoolInv → exec .start s = .next t →
    t.self.rsp = some ⟨.ok, false⟩ →
    (∀ e ∈ es, e ≠ .reset ∧ ∀ w, e = .act 0 (.command w) → decode w ≠ .ok .stop) →
    runInput { t with input := es } = .ok u → u.self.fillNext = none →
    ∃ v, exec .stop u = .next v ∧
      v.self = { s.self with
        fb := u.self.fb, scanLine := u.self.scanLine, shreg := u.self.shreg, rowbuf := u.self.rowbuf,
        fetched := u.self.fetched, rsp := some ⟨.ok, false⟩ } ∧
      v.peers = u.peers ∧ (∀ p, p ∈ v.pool.pins ↔ ∃ d ∈ v.peers, p ∈ d.claimedPins) ∧
      v.pool.freeTiming + (v.peers.map (Driver.claimedTiming v.cfg)).sum = v.cfg.poolTiming ∧
      v.pool.freeOutput + (v.peers.map (Driver.claimedOutput v.cfg)).sum = v.cfg.poolOutput ∧
      (u.pool = t.pool → v.pool = s.pool) ∧
      ∃ w, exec .start v = .next w ∧ w.self.rsp = some ⟨.ok, false⟩ ∧ w.self.lcState = .running ∧
        w.self.hcount = 0 ∧ w.self.vcount = 0 ∧ w.self.fb = u.self.fb

/-- R84, R24, R52: `START` and `STOP` touch neither the framebuffer nor the configuration, and, the model's choice (log
entry 10), not the fields of the scanout's hidden latches; `START`, `STOP` and `DESTROY` leave the schedule, the parameters
and the other instances alone. `DESTROY` leaves the pool alone, and, as nothing is armed or driven when it completes, the
pins, the counters and the armed bits (R202). -/
def Obligations.LifecycleCommandsFrame : Prop :=
  ∀ (i : Instr) (s t : State), i ∈ [Instr.start, .stop, .destroy] → exec i s = .next t →
    t.cfg = s.cfg ∧ t.peers = s.peers ∧ t.input = s.input ∧ t.self.fillNext = s.self.fillNext ∧
    (i ≠ .destroy → t.self.fb = s.self.fb ∧ t.self.constructed = s.self.constructed ∧ t.draws = s.draws ∧
      t.self.cfgMode = s.self.cfgMode ∧ t.self.cfgColPin = s.self.cfgColPin ∧ t.self.cfgHsPin = s.self.cfgHsPin ∧
      t.self.cfgVsPin = s.self.cfgVsPin ∧ t.self.scanLine = s.self.scanLine ∧ t.self.shreg = s.self.shreg ∧
      t.self.rowbuf = s.self.rowbuf ∧ t.self.fetched = s.self.fetched) ∧
    (i = .destroy → t.pool = s.pool ∧ (s.self.Inv s.cfg → t.self.pins = s.self.pins ∧
      t.self.hcount = s.self.hcount ∧ t.self.vcount = s.self.vcount ∧ t.self.scanBusy = s.self.scanBusy ∧
      t.self.lcState = s.self.lcState ∧ t.self.tcArmed = s.self.tcArmed ∧ t.self.seArmed = s.self.seArmed ∧
      t.self.claimedPins = s.self.claimedPins))

/-! ## FrameBuffer -/

/-- R122: `SET_PIXEL` of an in-range pixel completes: bit `i mod 8` of byte `i/8` is set, with `i = y*W + x`, every
other byte and every other field keeps its value. -/
def Obligations.SetPixelCompletes : Prop :=
  ∀ (s : State) (x : BitVec 16) (y : BitVec 12), s.self.fillNext = none → s.self.constructed = true →
    s.self.fb.wf = true → x.toNat < s.cfg.width → y.toNat < s.cfg.height →
    ∃ t, exec (.setPixel x y) s = .next t ∧
      t = { s with self := { s.self with fb := t.self.fb, rsp := some ⟨.ok, false⟩ } } ∧
      ∀ a, t.self.fb.read a =
        if a = (y.toNat * s.cfg.width + x.toNat) / 8 then
          s.self.fb.read a ||| (1#8 <<< ((y.toNat * s.cfg.width + x.toNat) % 8))
        else s.self.fb.read a

/-- R123: `CLEAR_PIXEL` of an in-range pixel completes: the bit is cleared, the other bits of the byte are kept, every
other byte and every other field keeps its value. -/
def Obligations.ClearPixelCompletes : Prop :=
  ∀ (s : State) (x : BitVec 16) (y : BitVec 12), s.self.fillNext = none → s.self.constructed = true →
    s.self.fb.wf = true → x.toNat < s.cfg.width → y.toNat < s.cfg.height →
    ∃ t, exec (.clearPixel x y) s = .next t ∧
      t = { s with self := { s.self with fb := t.self.fb, rsp := some ⟨.ok, false⟩ } } ∧
      ∀ a, t.self.fb.read a =
        if a = (y.toNat * s.cfg.width + x.toNat) / 8 then
          s.self.fb.read a &&& ~~~(1#8 <<< ((y.toNat * s.cfg.width + x.toNat) % 8))
        else s.self.fb.read a

/-- R124: `GET_PIXEL` of an in-range pixel completes with the pixel's bit and changes nothing else. -/
def Obligations.GetPixelCompletes : Prop :=
  ∀ (s : State) (x : BitVec 16) (y : BitVec 12), s.self.fillNext = none → s.self.constructed = true →
    x.toNat < s.cfg.width → y.toNat < s.cfg.height →
    exec (.getPixel x y) s = .next (s.respond .ok
      ((s.self.fb.read ((y.toNat * s.cfg.width + x.toNat) / 8)).getLsbD ((y.toNat * s.cfg.width + x.toNat) % 8)))

/-- R126: `WRITE_ROW_BYTE` of an in-range row and byte completes: byte `y*ROWBYTES + k` is `d`, so that bit `j` of `d` is
the pixel of column `8k + j`; every other byte and every other field keeps its value. -/
def Obligations.WriteRowByteCompletes : Prop :=
  ∀ (s : State) (y : BitVec 12) (k d : BitVec 8), s.self.fillNext = none → s.self.constructed = true →
    s.self.fb.wf = true → s.cfg.width % 8 = 0 → y.toNat < s.cfg.height → k.toNat < s.cfg.width / 8 →
    ∃ t, exec (.writeRowByte y k d) s = .next t ∧
      t = { s with self := { s.self with fb := t.self.fb, rsp := some ⟨.ok, false⟩ } } ∧
      (∀ a, t.self.fb.read a = if a = y.toNat * (s.cfg.width / 8) + k.toNat then d else s.self.fb.read a) ∧
      ∀ j, j < 8 → pixRead t.cfg t.self.fb y.toNat (8 * k.toNat + j) = .ok (d.getLsbD j)

/-- R125, R47: the command of a `FILL` completes with its first byte write (log entry 9): byte 0 is 0xFF or 0x00, every other
byte keeps its value, and the pass goes on at address 1 unless the buffer has one byte. -/
def Obligations.FillBegins : Prop :=
  ∀ (s : State) (v : BitVec 1), s.self.fillNext = none → s.self.constructed = true → s.self.fb.wf = true →
    0 < s.cfg.nbytes →
    ∃ t, exec (.fill v) s = .next t ∧
      t = { s with self := { s.self with fb := t.self.fb, fillNext := t.self.fillNext, rsp := t.self.rsp } } ∧
      (∀ a, t.self.fb.read a = if a = 0 then (if v = 1 then 0xFF else 0x00) else s.self.fb.read a) ∧
      (1 < s.cfg.nbytes → t.self.fillNext = some ⟨v == 1, 1⟩ ∧ t.self.rsp = none) ∧
      (s.cfg.nbytes = 1 → t.self.fillNext = none ∧ t.self.rsp = some ⟨.ok, false⟩)

/-- R125, R91, R76: whatever falls between its byte writes, TICKs of any instance, commands and passes of other instances,
and, while the pass is in progress (`ds`), commands to this instance too, a `FILL` pass ends after `NBYTES` byte writes with
every byte 0xFF or 0x00 and the response `OK`. Only device reset abandons it (R270). That the pass is one step for each byte,
and that a command to this instance meanwhile is refused, is the model's choice (log entry 9). -/
def Obligations.FillCompletesUnderAnyInterleaving : Prop :=
  ∀ (s t : State) (v : BitVec 1) (ds es : List Event), s.DriversInv → exec (.fill v) s = .next t →
    .reset ∉ ds → (ds = [] ∨ ds.count (.act 0 .fillWrite) + 1 < s.cfg.nbytes) →
    .reset ∉ es → (∀ w, .act 0 (.command w) ∉ es) →
    (ds ++ es).count (.act 0 .fillWrite) + 1 = s.cfg.nbytes →
    ∃ u, runInput { t with input := ds ++ es } = .ok u ∧
      (∀ a, a < s.cfg.nbytes → u.self.fb.read a = if v = 1 then 0xFF else 0x00) ∧
      u.self.fillNext = none ∧ u.self.rsp = some ⟨.ok, false⟩

/-- R129 (b): a `FILL 0` pass leaves the framebuffer bit for bit equal to its state immediately after `CONSTRUCT`,
whatever it held before (a `FILL 1`, say). -/
def Obligations.FillOffRestoresConstructedBuffer : Prop :=
  ∀ (s t u s' t' : State) (mode : BitVec 4) (col hs vs : Pin), s.DriversInv →
    exec (.fill 0) s = .next t →
    runInput { t with input := List.replicate (s.cfg.nbytes - 1) (.act 0 .fillWrite) } = .ok u →
    exec (.construct mode col hs vs) s' = .next t' → t'.self.rsp = some ⟨.ok, false⟩ →
    u.self.fb = t'.self.fb

/-- R129 (a): after `SET_PIXEL`, a read of the pixel returns 1, and a read of every other in-range pixel returns what it
returned before. -/
def Obligations.SetThenGetReturnsOn : Prop :=
  ∀ (s t : State) (x : BitVec 16) (y : BitVec 12), s.self.Inv s.cfg → pixelInRange s.cfg x y = true →
    exec (.setPixel x y) s = .next t →
    exec (.getPixel x y) t = .next (t.respond .ok true) ∧
    ∀ (x' : BitVec 16) (y' : BitVec 12) (b : Bool), pixelInRange s.cfg x' y' = true → (x', y') ≠ (x, y) →
      exec (.getPixel x' y') s = .next (s.respond .ok b) → exec (.getPixel x' y') t = .next (t.respond .ok b)

/-- R129 (c): after `CONSTRUCT`, setting the first and the last pixel leaves exactly bit 0 of the first byte and bit 7 of
the last byte set. -/
def Obligations.ExtremePixelsSetOnlyTheirBits : Prop :=
  ∀ (s t u : State) (x : BitVec 16) (y : BitVec 12), s.cfg.wf = true → 8 < s.cfg.width * s.cfg.height →
    s.self.fb = [] → x.toNat + 1 = s.cfg.width → y.toNat + 1 = s.cfg.height →
    exec (.setPixel 0 0) s = .next t → exec (.setPixel x y) t = .next u →
    u.self.fb = [(0, 0x01), (s.cfg.nbytes - 1, 0x80)]

/-- 60_exceptions.md R237: an out-of-range coordinate touches nothing; it is an error under `fail`, and under `clip` only
`GET_PIXEL` raises it. -/
def Obligations.OutOfRangeTouchesNothing : Prop :=
  ∀ (s : State) (x : BitVec 16) (y : BitVec 12) (k d : BitVec 8), s.self.fillNext = none →
    s.self.constructed = true →
    (pixelInRange s.cfg x y = false → exec (.getPixel x y) s = .next (s.respond .outOfBounds false)) ∧
    (pixelInRange s.cfg x y = false → s.cfg.oobPolicy = .fail →
      exec (.setPixel x y) s = .next (s.respond .outOfBounds false) ∧
      exec (.clearPixel x y) s = .next (s.respond .outOfBounds false)) ∧
    (pixelInRange s.cfg x y = false → s.cfg.oobPolicy = .clip →
      exec (.setPixel x y) s = .next (s.respond .ok false) ∧
      exec (.clearPixel x y) s = .next (s.respond .ok false)) ∧
    (rowByteInRange s.cfg y k = false → s.cfg.oobPolicy = .fail →
      exec (.writeRowByte y k d) s = .next (s.respond .outOfBounds false)) ∧
    (rowByteInRange s.cfg y k = false → s.cfg.oobPolicy = .clip →
      exec (.writeRowByte y k d) s = .next (s.respond .ok false))

/-- R120, R73: a FrameBuffer command changes nothing but the framebuffer, the `FILL` progress and the response; `GET_PIXEL`
leaves every byte of the framebuffer alone too. So do the later byte writes of a `FILL` pass, which are steps of their own
(R125; the model's split of the pass: log entry 9). -/
def Obligations.FrameBufferCommandsFrame : Prop :=
  (∀ (i : Instr) (s t : State),
    (∃ x y, i = .setPixel x y) ∨ (∃ x y, i = .clearPixel x y) ∨ (∃ x y, i = .getPixel x y) ∨ (∃ v, i = .fill v) ∨
      (∃ y k d, i = .writeRowByte y k d) →
    exec i s = .next t →
    t = { s with self := { s.self with fb := t.self.fb, fillNext := t.self.fillNext, rsp := t.self.rsp } } ∧
    ((∀ v, i ≠ .fill v) → t.self.fillNext = s.self.fillNext)) ∧
  (∀ (s t : State) (x : BitVec 16) (y : BitVec 12), exec (.getPixel x y) s = .next t → t.self.fb = s.self.fb) ∧
  ∀ (s t : State) (p : FillPass), s.self.fillNext = some p → act .fillWrite s = .next t →
    t = { s with self := { s.self with fb := t.self.fb, fillNext := t.self.fillNext, rsp := t.self.rsp } } ∧
    ∀ q, t.self.fillNext = some q → q = ⟨p.value, p.next + 1⟩

/-- The stores of the FrameBuffer commands: every byte outside the addressed one reads as before (R64, R122, R123, R126);
an out-of-range command stores nothing (R121). A `FILL` writes every byte (R125), one in each step, by the model's choice
(log entry 9): byte 0 in the step of the command, and in each later step of the pass the byte at its `next`. -/
def Obligations.FrameBufferStoresOneByte : Prop :=
  ∀ (s t : State) (a : Nat), s.self.fb.wf = true →
    (∀ (x : BitVec 16) (y : BitVec 12), exec (.setPixel x y) s = .next t ∨ exec (.clearPixel x y) s = .next t →
      (pixelInRange s.cfg x y = true → a ≠ pixelByte s.cfg y.toNat x.toNat → t.self.fb.read a = s.self.fb.read a) ∧
      (pixelInRange s.cfg x y = false → t.self.fb.read a = s.self.fb.read a)) ∧
    (∀ (y : BitVec 12) (k d : BitVec 8), exec (.writeRowByte y k d) s = .next t →
      (rowByteInRange s.cfg y k = true → a ≠ rowByteAddress s.cfg y.toNat k.toNat →
        t.self.fb.read a = s.self.fb.read a) ∧
      (rowByteInRange s.cfg y k = false → t.self.fb.read a = s.self.fb.read a)) ∧
    (∀ v : BitVec 1, exec (.fill v) s = .next t → a ≠ 0 → t.self.fb.read a = s.self.fb.read a) ∧
    (∀ p : FillPass, s.self.fillNext = some p → act .fillWrite s = .next t → a ≠ p.next →
      t.self.fb.read a = s.self.fb.read a)

/-- 20_memory.md R63, R64: the bit accessors: a write gives the pixel its value, changes no other bit of its byte and no
other byte, and a read returns the pixel's bit. -/
def Obligations.PixelAccessors : Prop :=
  ∀ (c : Config) (m : Memory) (r k : Nat), m.wf = true → r < c.height → k < c.width →
    pixRead c m r k = .ok ((m.read ((r * c.width + k) / 8)).getLsbD ((r * c.width + k) % 8)) ∧
    ∀ b, ∃ m', pixWrite c m r k b = .ok m' ∧ pixRead c m' r k = .ok b ∧
      (∀ j, j < 8 → j ≠ (r * c.width + k) % 8 →
        (m'.read ((r * c.width + k) / 8)).getLsbD j = (m.read ((r * c.width + k) / 8)).getLsbD j) ∧
      ∀ a, a ≠ (r * c.width + k) / 8 → m'.read a = m.read a

/-! ## TimingController -/

/-- 41_timing_controller.md R158: a TICK while `tc_armed = 0` changes nothing. -/
def Obligations.TickWhileDisarmedChangesNothing : Prop :=
  ∀ (c : Config) (n : Nat) (d : Driver), d.tcArmed = false → tick c n d = .ok d

/-- R147, R32: a TICK advances the position by one, `hcount` wrapping at `H_TOTAL` and `vcount` at `V_TOTAL`. -/
def Obligations.TickAdvancesPosition : Prop :=
  ∀ (c : Config) (n : Nat) (d d' : Driver), d.Inv c → c.hTotal ≤ 1024 → c.vTotal ≤ 1024 → d.tcArmed = true →
    tick c n d = .ok d' →
    d'.hcount.toNat = (if d.hcount.toNat = c.hTotal - 1 then 0 else d.hcount.toNat + 1) ∧
    d'.vcount.toNat = (if d.hcount.toNat = c.hTotal - 1 then
      (if d.vcount.toNat = c.vTotal - 1 then 0 else d.vcount.toNat + 1) else d.vcount.toNat) ∧
    d'.position c = (d.position c + 1) % c.framePeriods

/-- R144: `pin_hsync` is a function of `hcount` alone, after `TC.arm` and after every TICK while armed, on every line. -/
def Obligations.HsyncFollowsHcount : Prop :=
  (∀ (c : Config) (n : Nat) (d d' : Driver), d.tcArmed = true → tick c n d = .ok d' →
    d'.pinHsync = Level.drive (if d'.hcount.toNat < c.hSync then c.syncActive else !c.syncActive)) ∧
  (∀ (c : Config) (P P' : Pool) (d d' : Driver), tcArm c P d = .ok (P', d') →
    d'.pinHsync = Level.drive (if d'.hcount.toNat < c.hSync then c.syncActive else !c.syncActive))

/-- R145: `pin_vsync` is a function of `vcount` alone, after `TC.arm` and after every TICK while armed, so it changes
only when `hcount` becomes 0. -/
def Obligations.VsyncChangesOnlyAtLineStart : Prop :=
  (∀ (c : Config) (P P' : Pool) (d d' : Driver), tcArm c P d = .ok (P', d') →
    d'.pinVsync = Level.drive (if d'.vcount.toNat < c.vSync then c.syncActive else !c.syncActive)) ∧
  (∀ (c : Config) (n : Nat) (d d' : Driver), d.Inv c → d.tcArmed = true → tick c n d = .ok d' →
    d'.pinVsync = Level.drive (if d'.vcount.toNat < c.vSync then c.syncActive else !c.syncActive) ∧
    (d'.hcount ≠ 0 → d'.vcount = d.vcount ∧ d'.pinVsync = d.pinVsync))

/-- R154, R81: the pixel clock is never blocked: in every state of the hosts, in the middle of a `FILL` too, a TICK of any
instance and a clock edge at all instances have a next state; and a run shows the pin triple of the instance after its TICK
(70_reset_and_hazards.md R293). -/
def Obligations.TickAlwaysEnabled : Prop :=
  ∀ s : State, s.DriversInv →
    (∀ inst, inst ≤ s.peers.length → ∃ t, atInstance inst (act .tick) s = .next t) ∧ (∃ t, clockEdge s = .next t) ∧
    ∀ (inst : Nat) (es : List Event), inst ≤ s.peers.length → s.input = .act inst .tick :: es →
      ∃ t d, step s = .next t ∧ t.driverAt inst = some d ∧ stepShows s = [.pins inst d.pins]

/-- R156, R151, R292: whatever the hosts do meanwhile, short of a `STOP` to this instance or a reset, after `k` TICKs the
counters are those of the position `k` further, modulo the frame. -/
def Obligations.PositionClosedForm : Prop :=
  ∀ s t : State, s.DriversInv → s.self.tcArmed = true →
    (∀ e ∈ s.input, e ≠ .reset ∧ ∀ w, e = .act 0 (.command w) → decode w ≠ .ok .stop) →
    runInput s = .ok t →
    t.self.hcount.toNat = (s.self.position s.cfg + s.input.count (.act 0 .tick)) % s.cfg.hTotal ∧
    t.self.vcount.toNat =
      (s.self.position s.cfg + s.input.count (.act 0 .tick)) / s.cfg.hTotal % s.cfg.vTotal

/-- R143: the sub-intervals add up to the totals, for every set of parameters the machine constructs with and for the
one mode of this hardware. -/
def Obligations.IntervalsAddUp : Prop :=
  (∀ c : Config, c.wf = true →
    c.hSync + c.hBack + c.hActive + c.hFront = c.hTotal ∧ c.vSync + c.vBack + c.vActive + c.vFront = c.vTotal) ∧
  ∀ m n : Nat, (Config.vga640 m n).wf = true ∧ (Config.vga640 m n).hTotal = 96 + 48 + 640 + 16 ∧
    (Config.vga640 m n).hTotal = 800 ∧ (Config.vga640 m n).vTotal = 2 + 33 + 480 + 10 ∧
    (Config.vga640 m n).vTotal = 525

/-- R149: the layout of a frame by `vcount` in this hardware's mode. -/
def Obligations.FrameLayout : Prop :=
  ∀ m n v : Nat,
    (v ≤ 1 → phase (Config.vga640 m n) v = .verticalSync ∧ vsLevel (Config.vga640 m n) v = .low) ∧
    (2 ≤ v → v ≤ 34 → phase (Config.vga640 m n) v = .blanking ∧ vsLevel (Config.vga640 m n) v = .high) ∧
    (35 ≤ v → v ≤ 514 → phase (Config.vga640 m n) v = .activeVideo ∧ vsLevel (Config.vga640 m n) v = .high) ∧
    (515 ≤ v → v ≤ 524 → phase (Config.vga640 m n) v = .blanking ∧ vsLevel (Config.vga640 m n) v = .high)

/-- R157: the sync outputs and the counters after a TICK do not depend on the ScanoutEngine or the framebuffer. -/
def Obligations.SyncIndependentOfScanout : Prop :=
  ∀ (c : Config) (n n' : Nat) (d e d' e' : Driver),
    e.tcArmed = d.tcArmed → e.hcount = d.hcount → e.vcount = d.vcount → e.pinHsync = d.pinHsync →
    e.pinVsync = d.pinVsync → tick c n d = .ok d' → tick c n' e = .ok e' →
    e'.hcount = d'.hcount ∧ e'.vcount = d'.vcount ∧ e'.pinHsync = d'.pinHsync ∧ e'.pinVsync = d'.pinVsync

/-- R52, R75, R186: a TICK writes no byte of the framebuffer, no control field, no `FILL` progress and no response. -/
def Obligations.TickFrame : Prop :=
  ∀ (c : Config) (n : Nat) (d d' : Driver), tick c n d = .ok d' →
    d' = { d with
      hcount := d'.hcount, vcount := d'.vcount, pinHsync := d'.pinHsync, pinVsync := d'.pinVsync,
      pinColor := d'.pinColor, scanBusy := d'.scanBusy, scanLine := d'.scanLine, shreg := d'.shreg,
      rowbuf := d'.rowbuf, fetched := d'.fetched } ∧
    ∀ a, d'.fb.read a = d.fb.read a

/-! ## ScanoutEngine -/

/-- R172: at the line-boundary signal of an active-video line the row is selected, at that of another line the engine goes
idle, and between signals it never starts a row or changes its line. -/
def Obligations.RowBeginsAtLineBoundary : Prop :=
  ∀ (c : Config) (n : Nat) (d d' : Driver), c.wf = true → d.tcArmed = true → d.seArmed = true →
    tick c n d = .ok d' →
    (d'.hcount.toNat = c.lbLatency → phase c d'.vcount.toNat = .activeVideo →
      d'.scanBusy = true ∧ d'.scanLine.toNat = d'.vcount.toNat - c.v0) ∧
    (d'.hcount.toNat = c.lbLatency → phase c d'.vcount.toNat ≠ .activeVideo → d'.scanBusy = false) ∧
    (d'.hcount.toNat ≠ c.lbLatency → d'.scanLine = d.scanLine ∧ (d'.scanBusy = true → d.scanBusy = true))

/-- R176: in the TICK whose new `hcount` is `H0 + W` the row ends: the colour is inactive and the engine idle. -/
def Obligations.RowEndsAfterWidthPeriods : Prop :=
  ∀ (c : Config) (n : Nat) (d d' : Driver), c.wf = true → d.tcArmed = true → d.seArmed = true →
    tick c n d = .ok d' → d'.hcount.toNat = c.h0 + c.width →
    d'.pinColor = Level.drive c.colorInactive ∧ d'.scanBusy = false

/-- R174, R78, R82: under `JIT` the byte of a pixel group is read in the TICK that shows its first pixel, as the
framebuffer stands then, and the latch changes in no other TICK. -/
def Obligations.JitFetchesAtFirstPixel : Prop :=
  ∀ (c : Config) (n : Nat) (d d' : Driver), c.wf = true → c.fetchPolicy = .jit → d.tcArmed = true →
    d.seArmed = true → tick c n d = .ok d' →
    if d'.scanBusy = true ∧ c.h0 ≤ d'.hcount.toNat ∧ d'.hcount.toNat < c.h0 + c.width ∧
        (d'.hcount.toNat - c.h0) % 8 = 0 then
      d'.shreg = d.fb.read (d'.scanLine.toNat * (c.width / 8) + (d'.hcount.toNat - c.h0) / 8)
    else d'.shreg = d.shreg

/-- R175, R185: after every TICK while armed, the colour inside the row's pixel periods is bit `(hcount - H0) mod 8` of
`shreg` under `JIT`, and of byte `(hcount - H0) / 8` of the latched row under `ROW_LATCH` and `ANY`; it is the inactive
level everywhere else. -/
def Obligations.ColourIsLatchedPixel : Prop :=
  ∀ (c : Config) (n : Nat) (d d' : Driver), c.wf = true → d.tcArmed = true → d.seArmed = true →
    tick c n d = .ok d' →
    d'.pinColor =
      if d'.scanBusy = true ∧ c.h0 ≤ d'.hcount.toNat ∧ d'.hcount.toNat < c.h0 + c.width then
        Level.drive (if (if c.fetchPolicy = .jit then d'.shreg.getLsbD ((d'.hcount.toNat - c.h0) % 8)
            else (d'.rowbuf.read ((d'.hcount.toNat - c.h0) / 8)).getLsbD ((d'.hcount.toNat - c.h0) % 8))
          then c.colorActive else c.colorInactive)
      else Level.drive c.colorInactive

/-- R283: the colour is active only inside the active window, whatever the framebuffer holds. -/
def Obligations.ColourConfinedToActiveWindow : Prop :=
  ∀ (s : State) (d : Driver), s.DriversInv → d ∈ s.drivers → d.pinColor = Level.drive s.cfg.colorActive →
    s.cfg.v0 ≤ d.vcount.toNat ∧ d.vcount.toNat < s.cfg.v0 + s.cfg.vActive ∧ s.cfg.h0 ≤ d.hcount.toNat ∧
      d.hcount.toNat < s.cfg.h0 + s.cfg.width

/-- R177, R185: whatever the fetch policy, while no host writes the framebuffer, the TICKs that lead from the end of the
line before row `r` to the position `(V0 + r, H0 + c)` put pixel `(r, c)` on the colour pin. -/
def Obligations.EveryPixelAppearsAtItsPosition : Prop :=
  ∀ (c : Config) (n r col : Nat) (d : Driver), d.Inv c → c.wf = true → d.tcArmed = true → d.seArmed = true →
    r < c.height → col < c.width → d.vcount.toNat + 1 = c.v0 + r → d.hcount.toNat + 1 = c.hTotal →
    ∃ d', tickTimes c (1 + c.h0 + col) n d = .ok d' ∧ d'.vcount.toNat = c.v0 + r ∧ d'.hcount.toNat = c.h0 + col ∧
      d'.pinColor = colorLevel c (byteBit (d.fb.read (pixelByte c r col)) (pixelBit c r col))

/-! ## The pool and several instances -/

/-- 60_exceptions.md R251, R252, R253: what the claims and releases do to the pool. -/
def Obligations.PoolOperations : Prop :=
  ∀ (P : Pool) (p q : Pin) (n : Nat), P.pins.Pairwise (· < ·) →
    (q ∈ (P.claimPin p).pins ↔ q = p ∨ q ∈ P.pins) ∧ (P.claimPin p).pins.Pairwise (· < ·) ∧
    (q ∈ (P.releasePin p).pins ↔ q ∈ P.pins ∧ q ≠ p) ∧ (P.releasePin p).pins.Pairwise (· < ·) ∧
    (n ≤ P.freeTiming → (P.claimTiming n).freeTiming + n = P.freeTiming) ∧
    (P.releaseTiming n).freeTiming = P.freeTiming + n ∧
    (n ≤ P.freeOutput → (P.claimOutput n).freeOutput + n = P.freeOutput) ∧
    (P.releaseOutput n).freeOutput = P.freeOutput + n

/-- R210, R205, R233: an instance that names, for any of its three outputs, a pin that another instance has claimed fails
at its `START`, with `PinConflict` when its timing channels are free (else with the error checked before, R247), and
neither instance nor the pool is disturbed. -/
def Obligations.SecondInstanceGetsPinConflict : Prop :=
  ∀ (s : State) (d : Driver) (p : Pin), s.self.Inv s.cfg → s.PoolInv → d ∈ s.peers → p ∈ d.claimedPins →
    p = s.self.cfgHsPin ∨ p = s.self.cfgVsPin ∨ p = s.self.cfgColPin →
    s.cfg.wf = true → s.self.fillNext = none → s.self.constructed = true → s.self.lcState = .idle →
    s.cfg.tcChannels ≤ s.pool.freeTiming →
    exec .start s = .next (s.respond .pinConflict false)

/-- R210, R215, R256: an action of one instance changes no other instance. -/
def Obligations.InstancesAreIsolated : Prop :=
  ∀ (s t : State) (inst : Nat) (a : Action), atInstance inst (act a) s = .next t →
    (inst ≠ 0 → t.self = s.self) ∧ (∀ j, j + 1 ≠ inst → t.peers[j]? = s.peers[j]?) ∧
    (a = .tick ∨ a = .fillWrite → t.pool = s.pool)

/-! ## Responses and pseudo-commands -/

/-- 30_encoding.md R95, 93_implementation_defined.md V9: a completed command leaves one response, with data 0 unless it is
a `GET_PIXEL` that returns `OK`; only a `FILL` pass in progress leaves none. A run shows that response at the instance
the command was presented to, and none for a refused command (70_reset_and_hazards.md R293). -/
def Obligations.ResponseOfEveryCommand : Prop :=
  (∀ (i : Instr) (s t : State), exec i s = .next t →
    (t.self.rsp = none ∧ t.self.fillNext ≠ none ∧ ∃ v, i = .fill v) ∨
    ∃ st b, t.self.rsp = some ⟨st, b⟩ ∧ t.self.fillNext = none ∧ (b = true → st = .ok ∧ ∃ x y, i = .getPixel x y)) ∧
  ∀ (s : State) (inst : Nat) (w : Word) (es : List Event), s.input = .act inst (.command w) :: es →
    (∀ t, step s = .next t → ∃ d, t.driverAt inst = some d ∧
      ((stepShows s = [] ∧ d.fillNext ≠ none) ∨
        ∃ r, stepShows s = [.response inst r] ∧ d.rsp = some r ∧ d.fillNext = none)) ∧
    ∀ why, step s = .refused why → stepShows s = []

/-- R100: `WRITE_ROW` writes the bytes of one row and leaves every other byte alone. Its commands are performed with no
other event between them (the model's choice: log entry 20). -/
def Obligations.WriteRowWritesTheRow : Prop :=
  ∀ (s : State) (y : BitVec 12) (bytes : List Byte), s.cfg.wf = true → s.self.fillNext = none →
    s.self.constructed = true → s.self.fb.wf = true → (Pseudo.writeRow y bytes).wf s.cfg = true →
    y.toNat < s.cfg.height →
    ∃ t, performPseudo (.writeRow y bytes) s = .next t ∧
      (∀ (k : Nat) (b : Byte), bytes[k]? = some b → t.self.fb.read (rowByteAddress s.cfg y.toNat k) = b) ∧
      ∀ a, a ∉ rowView s.cfg y.toNat → t.self.fb.read a = s.self.fb.read a

/-- R100, R209: `RESTART` of a running instance stops it and starts it again at the beginning of a frame. That the `START`
always succeeds rests on a choice of the model (log entry 20): `performPseudo` lets no event fall between the `STOP` and the
`START`, so no other instance can claim the freed resources in between, as R209's proviso asks. -/
def Obligations.RestartBeginsNewFrame : Prop :=
  ∀ s : State, s.DriversInv → s.PoolInv → s.self.fillNext = none → s.self.lcState = .running →
    ∃ t, performPseudo .restart s = .next t ∧ t.self.rsp = some ⟨.ok, false⟩ ∧ t.self.lcState = .running ∧
      t.self.hcount = 0 ∧ t.self.vcount = 0 ∧ t.self.fb = s.self.fb
end

