-- ==== Sys2Proof/Laws/Memory.lean ====
section
/-! SUPPORT. The byte memory: a read after a write, the canonical form, equality by content, and the framebuffer's
checked read and write (20_memory.md R67, R70, R74). -/

namespace Sys2Proof.Machine

@[simp] theorem Memory.read_nil (a : Nat) : Memory.read [] a = 0 := rfl

theorem Memory.read_cons_same (b : Nat) (v : Byte) (m : Memory) : Memory.read ((b, v) :: m) b = v := if_pos rfl

theorem Memory.read_cons_other {a b : Nat} (h : b ≠ a) (v : Byte) (m : Memory) :
    Memory.read ((b, v) :: m) a = m.read a := if_neg h

@[simp] theorem Memory.write_nil (a : Nat) (v : Byte) :
    Memory.write [] a v = if v = 0 then [] else [(a, v)] := rfl

@[simp] theorem Memory.wf_nil : Memory.wf [] = true := rfl

@[simp] theorem Memory.below_nil (n : Nat) : Memory.below n [] = true := rfl

theorem Memory.wfFrom_cons {lo b : Nat} {v : Byte} {m : Memory} :
    Memory.wfFrom lo ((b, v) :: m) = true ↔ lo ≤ b ∧ v ≠ 0 ∧ Memory.wfFrom (b + 1) m = true := by
  simp [Memory.wfFrom, and_assoc]

theorem Memory.wfFrom_mono {m : Memory} {lo lo' : Nat} (hle : lo' ≤ lo) (h : Memory.wfFrom lo m = true) :
    Memory.wfFrom lo' m = true := by
  cases m with
  | nil => rfl
  | cons cell m =>
    obtain ⟨hb, hv, hm⟩ := wfFrom_cons.1 h
    exact wfFrom_cons.2 ⟨by omega, hv, hm⟩

/-- Below the lower bound of a canonical memory everything reads 0x00. -/
theorem Memory.read_of_wfFrom_lt {m : Memory} {lo a : Nat} (h : Memory.wfFrom lo m = true) (ha : a < lo) :
    m.read a = 0 := by
  induction m generalizing lo with
  | nil => rfl
  | cons cell m ih =>
    obtain ⟨hb, -, hm⟩ := wfFrom_cons.1 h
    rw [Memory.read, if_neg (by omega)]
    exact ih hm (by omega)

/-- A write gives the address its byte and keeps every other byte (R76). -/
theorem Memory.read_write {m : Memory} {lo : Nat} (h : Memory.wfFrom lo m = true) (a : Nat) (v : Byte) (x : Nat) :
    (m.write a v).read x = if x = a then v else m.read x := by
  induction m generalizing lo with
  | nil =>
    by_cases hv : v = 0
    · simp [hv]
    · by_cases hx : x = a
      · rw [Memory.write_nil, if_neg hv, if_pos hx, hx, Memory.read_cons_same]
      · rw [Memory.write_nil, if_neg hv, if_neg hx, Memory.read_cons_other (Ne.symm hx)]
  | cons cell m ih =>
    obtain ⟨b, u⟩ := cell
    obtain ⟨hb, hu, hm⟩ := wfFrom_cons.1 h
    have hlow : ∀ y, y ≤ b → Memory.read m y = 0 := fun y hy => Memory.read_of_wfFrom_lt hm (by omega)
    rw [Memory.write]
    split
    · rename_i hab
      split
      · rename_i hv
        by_cases hx : x = a
        · subst hx; rw [if_pos rfl, Memory.read, if_neg (by omega), hlow x (by omega), hv]
        · rw [if_neg hx]
      · by_cases hx : x = a
        · subst hx; simp [Memory.read]
        · rw [if_neg hx, Memory.read, if_neg (by omega)]
    · split
      · rename_i hab
        subst hab
        split
        · rename_i hv
          by_cases hx : x = a
          · subst hx; rw [if_pos rfl, hlow x (by omega), hv]
          · rw [if_neg hx, Memory.read, if_neg (by omega)]
        · by_cases hx : x = a
          · subst hx; simp [Memory.read]
          · rw [if_neg hx, Memory.read, Memory.read, if_neg (by omega), if_neg (by omega)]
      · rename_i h1 h2
        rw [Memory.read, Memory.read, ih hm]
        by_cases hx : b = x
        · subst hx; rw [if_pos rfl, if_pos rfl, if_neg (by omega)]
        · rw [if_neg hx, if_neg hx]

theorem Memory.read_write_same {m : Memory} (h : m.wf = true) (a : Nat) (v : Byte) : (m.write a v).read a = v := by
  rw [Memory.read_write h, if_pos rfl]

theorem Memory.read_write_other {m : Memory} (h : m.wf = true) {a x : Nat} (v : Byte) (hx : x ≠ a) :
    (m.write a v).read x = m.read x := by
  rw [Memory.read_write h, if_neg hx]

theorem Memory.wfFrom_write {m : Memory} {lo a : Nat} (h : Memory.wfFrom lo m = true) (hlo : lo ≤ a) (v : Byte) :
    Memory.wfFrom lo (m.write a v) = true := by
  induction m generalizing lo with
  | nil => by_cases hv : v = 0 <;> simp_all [Memory.wfFrom]
  | cons cell m ih =>
    obtain ⟨b, u⟩ := cell
    obtain ⟨hb, hu, hm⟩ := wfFrom_cons.1 h
    rw [Memory.write]
    split
    · split
      · exact h
      · exact wfFrom_cons.2 ⟨hlo, by assumption, wfFrom_cons.2 ⟨by omega, hu, hm⟩⟩
    · split
      · rename_i hab
        subst hab
        split
        · exact Memory.wfFrom_mono (by omega) hm
        · exact wfFrom_cons.2 ⟨hlo, by assumption, hm⟩
      · exact wfFrom_cons.2 ⟨hb, hu, ih hm (by omega)⟩

/-- A write keeps the canonical form. -/
theorem Memory.wf_write {m : Memory} (h : m.wf = true) (a : Nat) (v : Byte) : (m.write a v).wf = true :=
  Memory.wfFrom_write h (by omega) v

theorem Memory.below_cons {n : Nat} {cell : Host.Cell} {m : Memory} :
    Memory.below n (cell :: m) = true ↔ cell.1 < n ∧ Memory.below n m = true := by
  simp [Memory.below]

/-- A write below `n` keeps every listed address below `n`. -/
theorem Memory.below_write {m : Memory} {n a : Nat} (h : m.below n = true) (ha : a < n) (v : Byte) :
    (m.write a v).below n = true := by
  induction m with
  | nil => by_cases hv : v = 0 <;> simp_all [Memory.below]
  | cons cell m ih =>
    obtain ⟨b, u⟩ := cell
    obtain ⟨hb, hm⟩ := below_cons.1 h
    rw [Memory.write]
    split
    · split
      · exact h
      · exact below_cons.2 ⟨ha, h⟩
    · split
      · split
        · exact hm
        · exact below_cons.2 ⟨ha, hm⟩
      · exact below_cons.2 ⟨hb, ih hm⟩

theorem Memory.read_of_below {m : Memory} {n a : Nat} (h : m.below n = true) (ha : n ≤ a) : m.read a = 0 := by
  induction m with
  | nil => rfl
  | cons cell m ih =>
    obtain ⟨hb, hm⟩ := below_cons.1 h
    rw [Memory.read, if_neg (by omega)]
    exact ih hm

theorem Memory.ext_from {m m' : Memory} {lo : Nat} (h : Memory.wfFrom lo m = true) (h' : Memory.wfFrom lo m' = true)
    (hr : ∀ a, m.read a = m'.read a) : m = m' := by
  induction m generalizing m' lo with
  | nil =>
    cases m' with
    | nil => rfl
    | cons cell m' =>
      obtain ⟨-, hv, -⟩ := wfFrom_cons.1 h'
      exact absurd ((hr cell.1).trans (Memory.read_cons_same _ _ _)).symm hv
  | cons cell m ih =>
    obtain ⟨b, u⟩ := cell
    obtain ⟨hb, hu, hm⟩ := wfFrom_cons.1 h
    cases m' with
    | nil =>
      exact absurd ((Memory.read_cons_same b u m).symm.trans (hr b)) hu
    | cons cell' m' =>
      obtain ⟨b', u'⟩ := cell'
      obtain ⟨hb', hu', hm'⟩ := wfFrom_cons.1 h'
      have hbb : b = b' := by
        rcases Nat.lt_trichotomy b b' with hlt | heq | hlt
        · have := hr b
          rw [Memory.read, if_pos rfl, Memory.read, if_neg (by omega),
            Memory.read_of_wfFrom_lt hm' (by omega)] at this
          exact absurd this hu
        · exact heq
        · have := hr b'
          rw [Memory.read, if_neg (by omega), Memory.read_of_wfFrom_lt hm (by omega), Memory.read,
            if_pos rfl] at this
          exact absurd this.symm hu'
      subst hbb
      have huu : u = u' := by simpa [Memory.read] using hr b
      subst huu
      congr 1
      refine ih hm hm' fun a => ?_
      rcases Nat.lt_or_ge b a with hlt | hge
      · have := hr a
        rwa [Memory.read, if_neg (by omega), Memory.read, if_neg (by omega)] at this
      · rw [Memory.read_of_wfFrom_lt hm (by omega), Memory.read_of_wfFrom_lt hm' (by omega)]

/-- Canonical memories with the same content are the same data. -/
theorem Memory.ext {m m' : Memory} (h : m.wf = true) (h' : m'.wf = true) (hr : ∀ a, m.read a = m'.read a) :
    m = m' :=
  Memory.ext_from h h' hr

theorem Memory.wfFrom_ofFn (f : Nat → Byte) (lo n : Nat) : Memory.wfFrom lo (Memory.ofFn f lo n) = true := by
  induction n generalizing lo with
  | zero => rfl
  | succ n ih =>
    rw [Memory.ofFn]
    split
    · exact Memory.wfFrom_mono (by omega) (ih (lo + 1))
    · exact wfFrom_cons.2 ⟨by omega, by assumption, ih (lo + 1)⟩

theorem Memory.below_ofFn (f : Nat → Byte) (lo n : Nat) : Memory.below (lo + n) (Memory.ofFn f lo n) = true := by
  induction n generalizing lo with
  | zero => rfl
  | succ n ih =>
    have hstep : Memory.below (lo + (n + 1)) (Memory.ofFn f (lo + 1) n) = true := by
      have := ih (lo + 1)
      rwa [show lo + 1 + n = lo + (n + 1) by omega] at this
    rw [Memory.ofFn]
    split
    · exact hstep
    · exact below_cons.2 ⟨by simp, hstep⟩

/-- An unspecified framebuffer is in canonical form. -/
theorem unspecifiedFb_wf (c : Config) (n : Nat) : (unspecifiedFb c n).wf = true :=
  Memory.wfFrom_ofFn _ _ _

/-- An unspecified framebuffer lists only addresses below `NBYTES`. -/
theorem unspecifiedFb_below (c : Config) (n : Nat) : (unspecifiedFb c n).below c.nbytes = true := by
  have := Memory.below_ofFn (Config.freeByte n) 0 c.nbytes
  rwa [Nat.zero_add] at this

/-- The memories of the machine right after reset are in canonical form. -/
theorem State.reset_memory_wf :
    ∀ d ∈ State.reset.self :: State.reset.peers, d.fb.wf = true ∧ d.rowbuf.wf = true := by decide

/-! ## The framebuffer's checked access -/

theorem fbRead_ok {c : Config} {m : Memory} {a : Nat} (h : a < c.nbytes) : fbRead c m a = .ok (m.read a) := if_pos h

theorem fbRead_eq_ok {c : Config} {m : Memory} {a : Nat} {v : Byte} :
    fbRead c m a = .ok v ↔ a < c.nbytes ∧ v = m.read a := by
  unfold fbRead
  split <;> simp_all [eq_comm]

theorem fbWrite_ok {c : Config} {m : Memory} {a : Nat} {v : Byte} (h : a < c.nbytes) :
    fbWrite c m a v = .ok (m.write a v) := if_pos h

theorem fbWrite_eq_ok {c : Config} {m m' : Memory} {a : Nat} {v : Byte} :
    fbWrite c m a v = .ok m' ↔ a < c.nbytes ∧ m' = m.write a v := by
  unfold fbWrite
  split <;> simp_all [eq_comm]

/-- All that `PixWrite` can do (R64). -/
theorem pixWrite_eq_ok {c : Config} {m m' : Memory} {r k : Nat} {b : Bool} :
    pixWrite c m r k b = .ok m' ↔ pixelByte c r k < c.nbytes ∧
      m' = m.write (pixelByte c r k) (setByteBit (m.read (pixelByte c r k)) (pixelBit c r k) b) := by
  unfold pixWrite
  by_cases h : pixelByte c r k < c.nbytes
  · simp [fbRead_ok h, fbWrite_ok h, h, eq_comm]
  · simp [fbRead, h]

/-- All that `PixRead` can do (R63). -/
theorem pixRead_eq_ok {c : Config} {m : Memory} {r k : Nat} {b : Bool} :
    pixRead c m r k = .ok b ↔ pixelByte c r k < c.nbytes ∧
      b = byteBit (m.read (pixelByte c r k)) (pixelBit c r k) := by
  unfold pixRead
  by_cases h : pixelByte c r k < c.nbytes
  · simp [fbRead_ok h, h, eq_comm]
  · simp [fbRead, h]

end Sys2Proof.Machine
end

