-- ==== Sys2Proof/Laws/Pool.lean ====
section
/-! SUPPORT. The resource pool: claims and releases (60_exceptions.md R251 to R253), and everything the arms and disarms
can do (41_timing_controller.md R152, R153; 42_scanout_engine.md R180, R181). -/

namespace Sys2Proof.Machine

theorem mem_insertPin {p q : Pin} {l : List Pin} : q ∈ insertPin p l ↔ q = p ∨ q ∈ l := by
  induction l with
  | nil => simp [insertPin]
  | cons a l ih =>
    rw [insertPin]
    split
    · simp
    · split
      · rename_i h; subst h; simp
      · rw [List.mem_cons, List.mem_cons, ih]; tauto

theorem mem_removePin {p q : Pin} {l : List Pin} (h : l.Nodup) : q ∈ removePin p l ↔ q ≠ p ∧ q ∈ l := by
  induction l with
  | nil => simp [removePin]
  | cons a l ih =>
    obtain ⟨ha, hl⟩ := List.nodup_cons.1 h
    rw [removePin]
    split
    · rename_i hp; subst hp
      constructor
      · exact fun hq => ⟨fun e => ha (e ▸ hq), List.mem_cons_of_mem _ hq⟩
      · rintro ⟨hne, hq⟩
        exact (List.mem_cons.1 hq).resolve_left hne
    · rw [List.mem_cons, List.mem_cons, ih hl]
      constructor
      · rintro (rfl | hq)
        · exact ⟨fun e => by simp_all, .inl rfl⟩
        · exact ⟨hq.1, .inr hq.2⟩
      · rintro ⟨hne, rfl | hq⟩
        · exact .inl rfl
        · exact .inr ⟨hne, hq⟩

theorem removePin_sublist (p : Pin) (l : List Pin) : (removePin p l).Sublist l := by
  induction l with
  | nil => exact List.Sublist.slnil
  | cons a l ih =>
    rw [removePin]
    split
    · exact List.sublist_cons_self _ _
    · exact ih.cons_cons a

/-- A release keeps the canonical form of the set. -/
theorem removePin_rising {l : List Pin} (h : l.Pairwise (· < ·)) (p : Pin) : (removePin p l).Pairwise (· < ·) :=
  h.sublist (removePin_sublist p l)

/-- A claim keeps the canonical form of the set. -/
theorem insertPin_rising {l : List Pin} (h : l.Pairwise (· < ·)) (p : Pin) : (insertPin p l).Pairwise (· < ·) := by
  induction l with
  | nil => simp [insertPin]
  | cons a l ih =>
    obtain ⟨ha, hl⟩ := List.pairwise_cons.1 h
    rw [insertPin]
    split
    · rename_i hlt
      refine List.pairwise_cons.2 ⟨fun q hq => ?_, h⟩
      rcases List.mem_cons.1 hq with rfl | hq
      · exact hlt
      · exact BitVec.lt_trans hlt (ha q hq)
    · split
      · exact h
      · rename_i h1 h2
        refine List.pairwise_cons.2 ⟨fun q hq => ?_, ih hl⟩
        rcases mem_insertPin.1 hq with rfl | hq
        · rw [BitVec.lt_def] at h1 ⊢
          have : q.toNat ≠ a.toNat := fun e => h2 (BitVec.eq_of_toNat_eq e)
          omega
        · exact ha q hq

theorem rising_nodup {l : List Pin} (h : l.Pairwise (· < ·)) : l.Nodup :=
  h.imp fun hlt he => by subst he; exact absurd hlt (BitVec.lt_irrefl _)

/-- Releasing what was just claimed gives the set back. -/
theorem removePin_insertPin {p : Pin} {l : List Pin} (h : p ∉ l) : removePin p (insertPin p l) = l := by
  induction l with
  | nil => simp [insertPin, removePin]
  | cons a l ih =>
    obtain ⟨hpa, hpl⟩ := List.ne_and_not_mem_of_not_mem_cons h
    rw [insertPin]
    split
    · simp [removePin]
    · rw [removePin, if_neg hpa, ih hpl]

/-- Releasing an earlier claim leaves the later one. -/
theorem removePin_insertPin_insertPin {p q : Pin} {l : List Pin} (hpq : p ≠ q) (h : p ∉ l) :
    removePin p (insertPin q (insertPin p l)) = insertPin q l := by
  have lt_of_not : ∀ a b : Pin, ¬ a < b → a ≠ b → b < a := fun a b h1 h2 => by
    rw [BitVec.lt_def] at *
    have : a.toNat ≠ b.toNat := fun e => h2 (BitVec.eq_of_toNat_eq e)
    omega
  induction l with
  | nil =>
    by_cases hlt : q < p
    · simp [insertPin, removePin, hlt, hpq]
    · simp [insertPin, removePin, hlt, Ne.symm hpq]
  | cons a l ih =>
    obtain ⟨hpa, hpl⟩ := List.ne_and_not_mem_of_not_mem_cons h
    by_cases hp : p < a
    · rw [insertPin, if_pos hp]
      by_cases hq : q < p
      · rw [insertPin, if_pos hq, removePin, if_neg hpq, removePin, if_pos rfl, insertPin,
          if_pos (BitVec.lt_trans hq hp)]
      · rw [insertPin, if_neg hq, if_neg (Ne.symm hpq), removePin, if_pos rfl]
    · have hap := lt_of_not p a hp hpa
      rw [insertPin, if_neg hp, if_neg hpa]
      by_cases hq : q < a
      · rw [insertPin, if_pos hq, removePin, if_neg hpq, removePin, if_neg hpa, removePin_insertPin hpl,
          insertPin, if_pos hq]
      · rw [insertPin, if_neg hq]
        by_cases hqa : q = a
        · rw [if_pos hqa, removePin, if_neg hpa, removePin_insertPin hpl, insertPin, if_neg hq, if_pos hqa]
        · rw [if_neg hqa, removePin, if_neg hpa, ih hpl, insertPin, if_neg hq, if_neg hqa]

theorem Pool.holds_iff {P : Pool} {p : Pin} : P.holds p = true ↔ p ∈ P.pins := by
  simp [Pool.holds]

theorem Pool.holds_eq_false {P : Pool} {p : Pin} : P.holds p = false ↔ p ∉ P.pins := by
  simp [Pool.holds]

/-! ## The arms and disarms -/

/-- All that a successful `TC.arm` does (R152). -/
theorem tcArm_eq_ok {c : Config} {P P' : Pool} {d d' : Driver} :
    tcArm c P d = .ok (P', d') ↔
      c.tcChannels ≤ P.freeTiming ∧ d.cfgHsPin ∉ P.pins ∧ d.cfgVsPin ∉ P.pins ∧ d.cfgVsPin ≠ d.cfgHsPin ∧
      P' = { P with pins := insertPin d.cfgVsPin (insertPin d.cfgHsPin P.pins),
                    freeTiming := P.freeTiming - c.tcChannels } ∧
      d' = { d with hcount := 0, vcount := 0, pinHsync := hsLevel c 0, pinVsync := vsLevel c 0, tcArmed := true } := by
  unfold tcArm
  split
  · simp; omega
  · split
    · simp_all [Pool.holds_iff]
    · split
      · rename_i h1 h2 h3
        rw [Bool.or_eq_true, Pool.holds_iff, beq_iff_eq] at h3
        simp only [reduceCtorEq, false_iff]
        rintro ⟨-, -, h4, h5, -⟩
        exact h3.elim h4 h5
      · rename_i h1 h2 h3
        rw [Bool.not_eq_true, Bool.or_eq_false_iff, Pool.holds_eq_false, beq_eq_false_iff_ne] at h3
        rw [Bool.not_eq_true, Pool.holds_eq_false] at h2
        constructor
        · intro h
          simp only [Except.ok.injEq, Prod.mk.injEq] at h
          exact ⟨by omega, h2, h3.1, h3.2, h.1.symm, h.2.symm⟩
        · rintro ⟨-, -, -, -, rfl, rfl⟩
          rfl

/-- When `TC.arm` raises an error (R152, R247). -/
theorem tcArm_eq_error {c : Config} {P : Pool} {d : Driver} {e : Status} :
    tcArm c P d = .error e ↔
      (P.freeTiming < c.tcChannels ∧ e = .resourceExhausted) ∨
      (c.tcChannels ≤ P.freeTiming ∧
        (d.cfgHsPin ∈ P.pins ∨ d.cfgVsPin ∈ P.pins ∨ d.cfgVsPin = d.cfgHsPin) ∧ e = .pinConflict) := by
  unfold tcArm
  split
  · simp only [Except.error.injEq]
    constructor
    · rintro rfl; exact .inl ⟨by omega, rfl⟩
    · rintro (⟨-, rfl⟩ | ⟨h, -⟩)
      · rfl
      · omega
  · rename_i h1
    split
    · rename_i h2
      rw [Pool.holds_iff] at h2
      simp only [Except.error.injEq]
      constructor
      · rintro rfl; exact .inr ⟨by omega, .inl h2, rfl⟩
      · rintro (⟨h, -⟩ | ⟨-, -, rfl⟩)
        · omega
        · rfl
    · split
      · rename_i h2 h3
        rw [Bool.or_eq_true, Pool.holds_iff, beq_iff_eq] at h3
        simp only [Except.error.injEq]
        constructor
        · rintro rfl; exact .inr ⟨by omega, .inr h3, rfl⟩
        · rintro (⟨h, -⟩ | ⟨-, -, rfl⟩)
          · omega
          · rfl
      · rename_i h2 h3
        rw [Bool.not_eq_true, Bool.or_eq_false_iff, Pool.holds_eq_false, beq_eq_false_iff_ne] at h3
        rw [Bool.not_eq_true, Pool.holds_eq_false] at h2
        simp only [reduceCtorEq, false_iff]
        rintro (⟨h, -⟩ | ⟨-, h | h | h, -⟩)
        · omega
        · exact h2 h
        · exact h3.1 h
        · exact h3.2 h

/-- All that a successful `SE.arm` does (R180). -/
theorem seArm_eq_ok {c : Config} {P P' : Pool} {d d' : Driver} :
    seArm c P d = .ok (P', d') ↔
      d.cfgColPin ∉ P.pins ∧ c.seChannels ≤ P.freeOutput ∧
      P' = { P with pins := insertPin d.cfgColPin P.pins, freeOutput := P.freeOutput - c.seChannels } ∧
      d' = { d with scanBusy := false, pinColor := colorLevel c false, seArmed := true } := by
  unfold seArm
  split
  · simp_all [Pool.holds_iff]
  · split
    · simp; omega
    · rename_i h1 h2
      rw [Bool.not_eq_true, Pool.holds_eq_false] at h1
      constructor
      · intro h
        simp only [Except.ok.injEq, Prod.mk.injEq] at h
        exact ⟨h1, by omega, h.1.symm, h.2.symm⟩
      · rintro ⟨-, -, rfl, rfl⟩
        rfl

/-- When `SE.arm` raises an error (R180, R247). -/
theorem seArm_eq_error {c : Config} {P : Pool} {d : Driver} {e : Status} :
    seArm c P d = .error e ↔
      (d.cfgColPin ∈ P.pins ∧ e = .pinConflict) ∨
      (d.cfgColPin ∉ P.pins ∧ P.freeOutput < c.seChannels ∧ e = .resourceExhausted) := by
  unfold seArm
  split
  · rename_i h1
    rw [Pool.holds_iff] at h1
    simp only [Except.error.injEq, h1, true_and, not_true_eq_false, false_and, or_false, eq_comm]
  · rename_i h1
    rw [Bool.not_eq_true, Pool.holds_eq_false] at h1
    split
    · rename_i h2
      simp only [Except.error.injEq, h1, h2, not_false_eq_true, true_and, false_and, false_or, eq_comm]
    · rename_i h2
      simp [h1, h2]

/-- Both disarms of `STOP` while both components are armed (R208). -/
theorem stopArms_armed {c : Config} {P : Pool} {d : Driver} (htc : d.tcArmed = true) (hse : d.seArmed = true) :
    tcDisarm c (seDisarm c P d).1 (seDisarm c P d).2 =
      ({ pins := removePin d.cfgVsPin (removePin d.cfgHsPin (removePin d.cfgColPin P.pins)),
         freeTiming := P.freeTiming + c.tcChannels, freeOutput := P.freeOutput + c.seChannels },
       { d with seArmed := false, scanBusy := false, pinColor := .z, tcArmed := false, hcount := 0, vcount := 0,
                pinHsync := .z, pinVsync := .z }) := by
  simp [seDisarm, hse, tcDisarm, htc, Pool.releasePin, Pool.releaseOutput, Pool.releaseTiming]

/-- The rollback of a `START` that fails at step (3) undoes step (2) (R206): the pool is as before, and so is an
instance whose counters and sync pins were those of a disarmed TimingController. -/
theorem tcDisarm_tcArm {c : Config} {P P' : Pool} {d d' : Driver} (h : tcArm c P d = .ok (P', d'))
    (htc : d.tcArmed = false) (hh : d.hcount = 0) (hv : d.vcount = 0) (hps : d.pinHsync = .z) (hpv : d.pinVsync = .z) :
    tcDisarm c P' d' = (P, d) := by
  obtain ⟨hfree, hhs, hvs, hne, rfl, rfl⟩ := tcArm_eq_ok.1 h
  have hd : { d with tcArmed := false, hcount := 0, vcount := 0, pinHsync := .z, pinVsync := .z } = d := by
    cases d
    subst htc hh hv hps hpv
    rfl
  simp only [tcDisarm, if_true, Pool.releasePin, Pool.releaseTiming]
  rw [removePin_insertPin_insertPin (Ne.symm hne) hhs, removePin_insertPin hvs, Nat.sub_add_cancel hfree]
  exact Prod.ext rfl hd

end Sys2Proof.Machine
end

