-- ==== Sys2Proof/Laws/State.lean ====
section
/-! SUPPORT. What each named update does to each field of State and Driver, so that no proof unfolds a record update. -/

namespace Sys2Proof.Machine

/-! ## State.respond (30_encoding.md R91) -/

@[simp] theorem State.respond_cfg (s : State) (st : Status) (b : Bool) : (s.respond st b).cfg = s.cfg := rfl
@[simp] theorem State.respond_pool (s : State) (st : Status) (b : Bool) : (s.respond st b).pool = s.pool := rfl
@[simp] theorem State.respond_peers (s : State) (st : Status) (b : Bool) : (s.respond st b).peers = s.peers := rfl
@[simp] theorem State.respond_input (s : State) (st : Status) (b : Bool) : (s.respond st b).input = s.input := rfl
@[simp] theorem State.respond_draws (s : State) (st : Status) (b : Bool) : (s.respond st b).draws = s.draws := rfl
@[simp] theorem State.respond_self_constructed (s : State) (st : Status) (b : Bool) :
    (s.respond st b).self.constructed = s.self.constructed := rfl
@[simp] theorem State.respond_self_lcState (s : State) (st : Status) (b : Bool) :
    (s.respond st b).self.lcState = s.self.lcState := rfl
@[simp] theorem State.respond_self_cfgMode (s : State) (st : Status) (b : Bool) :
    (s.respond st b).self.cfgMode = s.self.cfgMode := rfl
@[simp] theorem State.respond_self_cfgColPin (s : State) (st : Status) (b : Bool) :
    (s.respond st b).self.cfgColPin = s.self.cfgColPin := rfl
@[simp] theorem State.respond_self_cfgHsPin (s : State) (st : Status) (b : Bool) :
    (s.respond st b).self.cfgHsPin = s.self.cfgHsPin := rfl
@[simp] theorem State.respond_self_cfgVsPin (s : State) (st : Status) (b : Bool) :
    (s.respond st b).self.cfgVsPin = s.self.cfgVsPin := rfl
@[simp] theorem State.respond_self_tcArmed (s : State) (st : Status) (b : Bool) :
    (s.respond st b).self.tcArmed = s.self.tcArmed := rfl
@[simp] theorem State.respond_self_seArmed (s : State) (st : Status) (b : Bool) :
    (s.respond st b).self.seArmed = s.self.seArmed := rfl
@[simp] theorem State.respond_self_hcount (s : State) (st : Status) (b : Bool) :
    (s.respond st b).self.hcount = s.self.hcount := rfl
@[simp] theorem State.respond_self_vcount (s : State) (st : Status) (b : Bool) :
    (s.respond st b).self.vcount = s.self.vcount := rfl
@[simp] theorem State.respond_self_scanBusy (s : State) (st : Status) (b : Bool) :
    (s.respond st b).self.scanBusy = s.self.scanBusy := rfl
@[simp] theorem State.respond_self_scanLine (s : State) (st : Status) (b : Bool) :
    (s.respond st b).self.scanLine = s.self.scanLine := rfl
@[simp] theorem State.respond_self_shreg (s : State) (st : Status) (b : Bool) :
    (s.respond st b).self.shreg = s.self.shreg := rfl
@[simp] theorem State.respond_self_rowbuf (s : State) (st : Status) (b : Bool) :
    (s.respond st b).self.rowbuf = s.self.rowbuf := rfl
@[simp] theorem State.respond_self_fetched (s : State) (st : Status) (b : Bool) :
    (s.respond st b).self.fetched = s.self.fetched := rfl
@[simp] theorem State.respond_self_pinHsync (s : State) (st : Status) (b : Bool) :
    (s.respond st b).self.pinHsync = s.self.pinHsync := rfl
@[simp] theorem State.respond_self_pinVsync (s : State) (st : Status) (b : Bool) :
    (s.respond st b).self.pinVsync = s.self.pinVsync := rfl
@[simp] theorem State.respond_self_pinColor (s : State) (st : Status) (b : Bool) :
    (s.respond st b).self.pinColor = s.self.pinColor := rfl
@[simp] theorem State.respond_self_fb (s : State) (st : Status) (b : Bool) :
    (s.respond st b).self.fb = s.self.fb := rfl
@[simp] theorem State.respond_self_fillNext (s : State) (st : Status) (b : Bool) :
    (s.respond st b).self.fillNext = s.self.fillNext := rfl
@[simp] theorem State.respond_self_rsp (s : State) (st : Status) (b : Bool) :
    (s.respond st b).self.rsp = some ⟨st, b⟩ := rfl
@[simp] theorem State.respond_claimedPins (s : State) (st : Status) (b : Bool) :
    (s.respond st b).self.claimedPins = s.self.claimedPins := rfl

/-! ## advancePosition (41_timing_controller.md R147) -/

@[simp] theorem advancePosition_constructed (c : Config) (d : Driver) : (advancePosition c d).constructed = d.constructed := rfl
@[simp] theorem advancePosition_lcState (c : Config) (d : Driver) : (advancePosition c d).lcState = d.lcState := rfl
@[simp] theorem advancePosition_cfgMode (c : Config) (d : Driver) : (advancePosition c d).cfgMode = d.cfgMode := rfl
@[simp] theorem advancePosition_cfgColPin (c : Config) (d : Driver) : (advancePosition c d).cfgColPin = d.cfgColPin := rfl
@[simp] theorem advancePosition_cfgHsPin (c : Config) (d : Driver) : (advancePosition c d).cfgHsPin = d.cfgHsPin := rfl
@[simp] theorem advancePosition_cfgVsPin (c : Config) (d : Driver) : (advancePosition c d).cfgVsPin = d.cfgVsPin := rfl
@[simp] theorem advancePosition_tcArmed (c : Config) (d : Driver) : (advancePosition c d).tcArmed = d.tcArmed := rfl
@[simp] theorem advancePosition_seArmed (c : Config) (d : Driver) : (advancePosition c d).seArmed = d.seArmed := rfl
@[simp] theorem advancePosition_scanBusy (c : Config) (d : Driver) : (advancePosition c d).scanBusy = d.scanBusy := rfl
@[simp] theorem advancePosition_scanLine (c : Config) (d : Driver) : (advancePosition c d).scanLine = d.scanLine := rfl
@[simp] theorem advancePosition_shreg (c : Config) (d : Driver) : (advancePosition c d).shreg = d.shreg := rfl
@[simp] theorem advancePosition_rowbuf (c : Config) (d : Driver) : (advancePosition c d).rowbuf = d.rowbuf := rfl
@[simp] theorem advancePosition_fetched (c : Config) (d : Driver) : (advancePosition c d).fetched = d.fetched := rfl
@[simp] theorem advancePosition_pinColor (c : Config) (d : Driver) : (advancePosition c d).pinColor = d.pinColor := rfl
@[simp] theorem advancePosition_fb (c : Config) (d : Driver) : (advancePosition c d).fb = d.fb := rfl
@[simp] theorem advancePosition_fillNext (c : Config) (d : Driver) : (advancePosition c d).fillNext = d.fillNext := rfl
@[simp] theorem advancePosition_rsp (c : Config) (d : Driver) : (advancePosition c d).rsp = d.rsp := rfl
@[simp] theorem advancePosition_pinHsync (c : Config) (d : Driver) :
    (advancePosition c d).pinHsync = hsLevel c (advancePosition c d).hcount.toNat := rfl
@[simp] theorem advancePosition_pinVsync (c : Config) (d : Driver) :
    (advancePosition c d).pinVsync = vsLevel c (advancePosition c d).vcount.toNat := rfl

/-! ## The parts of SE.tick (42_scanout_engine.md R171) -/

@[simp] theorem seShow_constructed (c : Config) (d : Driver) : (seShow c d).constructed = d.constructed := rfl
@[simp] theorem seShow_lcState (c : Config) (d : Driver) : (seShow c d).lcState = d.lcState := rfl
@[simp] theorem seShow_cfgMode (c : Config) (d : Driver) : (seShow c d).cfgMode = d.cfgMode := rfl
@[simp] theorem seShow_cfgColPin (c : Config) (d : Driver) : (seShow c d).cfgColPin = d.cfgColPin := rfl
@[simp] theorem seShow_cfgHsPin (c : Config) (d : Driver) : (seShow c d).cfgHsPin = d.cfgHsPin := rfl
@[simp] theorem seShow_cfgVsPin (c : Config) (d : Driver) : (seShow c d).cfgVsPin = d.cfgVsPin := rfl
@[simp] theorem seShow_tcArmed (c : Config) (d : Driver) : (seShow c d).tcArmed = d.tcArmed := rfl
@[simp] theorem seShow_seArmed (c : Config) (d : Driver) : (seShow c d).seArmed = d.seArmed := rfl
@[simp] theorem seShow_hcount (c : Config) (d : Driver) : (seShow c d).hcount = d.hcount := rfl
@[simp] theorem seShow_vcount (c : Config) (d : Driver) : (seShow c d).vcount = d.vcount := rfl
@[simp] theorem seShow_scanBusy (c : Config) (d : Driver) : (seShow c d).scanBusy = d.scanBusy := rfl
@[simp] theorem seShow_scanLine (c : Config) (d : Driver) : (seShow c d).scanLine = d.scanLine := rfl
@[simp] theorem seShow_shreg (c : Config) (d : Driver) : (seShow c d).shreg = d.shreg := rfl
@[simp] theorem seShow_rowbuf (c : Config) (d : Driver) : (seShow c d).rowbuf = d.rowbuf := rfl
@[simp] theorem seShow_fetched (c : Config) (d : Driver) : (seShow c d).fetched = d.fetched := rfl
@[simp] theorem seShow_pinHsync (c : Config) (d : Driver) : (seShow c d).pinHsync = d.pinHsync := rfl
@[simp] theorem seShow_pinVsync (c : Config) (d : Driver) : (seShow c d).pinVsync = d.pinVsync := rfl
@[simp] theorem seShow_pinColor (c : Config) (d : Driver) : (seShow c d).pinColor = scanLevel c d := rfl
@[simp] theorem seShow_fb (c : Config) (d : Driver) : (seShow c d).fb = d.fb := rfl
@[simp] theorem seShow_fillNext (c : Config) (d : Driver) : (seShow c d).fillNext = d.fillNext := rfl
@[simp] theorem seShow_rsp (c : Config) (d : Driver) : (seShow c d).rsp = d.rsp := rfl
@[simp] theorem seBegin_constructed (c : Config) (d : Driver) : (seBegin c d).constructed = d.constructed := by
  unfold seBegin; split <;> [split; skip] <;> rfl
@[simp] theorem seBegin_lcState (c : Config) (d : Driver) : (seBegin c d).lcState = d.lcState := by
  unfold seBegin; split <;> [split; skip] <;> rfl
@[simp] theorem seBegin_cfgMode (c : Config) (d : Driver) : (seBegin c d).cfgMode = d.cfgMode := by
  unfold seBegin; split <;> [split; skip] <;> rfl
@[simp] theorem seBegin_cfgColPin (c : Config) (d : Driver) : (seBegin c d).cfgColPin = d.cfgColPin := by
  unfold seBegin; split <;> [split; skip] <;> rfl
@[simp] theorem seBegin_cfgHsPin (c : Config) (d : Driver) : (seBegin c d).cfgHsPin = d.cfgHsPin := by
  unfold seBegin; split <;> [split; skip] <;> rfl
@[simp] theorem seBegin_cfgVsPin (c : Config) (d : Driver) : (seBegin c d).cfgVsPin = d.cfgVsPin := by
  unfold seBegin; split <;> [split; skip] <;> rfl
@[simp] theorem seBegin_tcArmed (c : Config) (d : Driver) : (seBegin c d).tcArmed = d.tcArmed := by
  unfold seBegin; split <;> [split; skip] <;> rfl
@[simp] theorem seBegin_seArmed (c : Config) (d : Driver) : (seBegin c d).seArmed = d.seArmed := by
  unfold seBegin; split <;> [split; skip] <;> rfl
@[simp] theorem seBegin_hcount (c : Config) (d : Driver) : (seBegin c d).hcount = d.hcount := by
  unfold seBegin; split <;> [split; skip] <;> rfl
@[simp] theorem seBegin_vcount (c : Config) (d : Driver) : (seBegin c d).vcount = d.vcount := by
  unfold seBegin; split <;> [split; skip] <;> rfl
@[simp] theorem seBegin_shreg (c : Config) (d : Driver) : (seBegin c d).shreg = d.shreg := by
  unfold seBegin; split <;> [split; skip] <;> rfl
@[simp] theorem seBegin_rowbuf (c : Config) (d : Driver) : (seBegin c d).rowbuf = d.rowbuf := by
  unfold seBegin; split <;> [split; skip] <;> rfl
@[simp] theorem seBegin_pinHsync (c : Config) (d : Driver) : (seBegin c d).pinHsync = d.pinHsync := by
  unfold seBegin; split <;> [split; skip] <;> rfl
@[simp] theorem seBegin_pinVsync (c : Config) (d : Driver) : (seBegin c d).pinVsync = d.pinVsync := by
  unfold seBegin; split <;> [split; skip] <;> rfl
@[simp] theorem seBegin_pinColor (c : Config) (d : Driver) : (seBegin c d).pinColor = d.pinColor := by
  unfold seBegin; split <;> [split; skip] <;> rfl
@[simp] theorem seBegin_fb (c : Config) (d : Driver) : (seBegin c d).fb = d.fb := by
  unfold seBegin; split <;> [split; skip] <;> rfl
@[simp] theorem seBegin_fillNext (c : Config) (d : Driver) : (seBegin c d).fillNext = d.fillNext := by
  unfold seBegin; split <;> [split; skip] <;> rfl
@[simp] theorem seBegin_rsp (c : Config) (d : Driver) : (seBegin c d).rsp = d.rsp := by
  unfold seBegin; split <;> [split; skip] <;> rfl
@[simp] theorem seEnd_constructed (c : Config) (d : Driver) : (seEnd c d).constructed = d.constructed := by
  unfold seEnd; split <;> rfl
@[simp] theorem seEnd_lcState (c : Config) (d : Driver) : (seEnd c d).lcState = d.lcState := by
  unfold seEnd; split <;> rfl
@[simp] theorem seEnd_cfgMode (c : Config) (d : Driver) : (seEnd c d).cfgMode = d.cfgMode := by
  unfold seEnd; split <;> rfl
@[simp] theorem seEnd_cfgColPin (c : Config) (d : Driver) : (seEnd c d).cfgColPin = d.cfgColPin := by
  unfold seEnd; split <;> rfl
@[simp] theorem seEnd_cfgHsPin (c : Config) (d : Driver) : (seEnd c d).cfgHsPin = d.cfgHsPin := by
  unfold seEnd; split <;> rfl
@[simp] theorem seEnd_cfgVsPin (c : Config) (d : Driver) : (seEnd c d).cfgVsPin = d.cfgVsPin := by
  unfold seEnd; split <;> rfl
@[simp] theorem seEnd_tcArmed (c : Config) (d : Driver) : (seEnd c d).tcArmed = d.tcArmed := by
  unfold seEnd; split <;> rfl
@[simp] theorem seEnd_seArmed (c : Config) (d : Driver) : (seEnd c d).seArmed = d.seArmed := by
  unfold seEnd; split <;> rfl
@[simp] theorem seEnd_hcount (c : Config) (d : Driver) : (seEnd c d).hcount = d.hcount := by
  unfold seEnd; split <;> rfl
@[simp] theorem seEnd_vcount (c : Config) (d : Driver) : (seEnd c d).vcount = d.vcount := by
  unfold seEnd; split <;> rfl
@[simp] theorem seEnd_scanLine (c : Config) (d : Driver) : (seEnd c d).scanLine = d.scanLine := by
  unfold seEnd; split <;> rfl
@[simp] theorem seEnd_shreg (c : Config) (d : Driver) : (seEnd c d).shreg = d.shreg := by
  unfold seEnd; split <;> rfl
@[simp] theorem seEnd_rowbuf (c : Config) (d : Driver) : (seEnd c d).rowbuf = d.rowbuf := by
  unfold seEnd; split <;> rfl
@[simp] theorem seEnd_fetched (c : Config) (d : Driver) : (seEnd c d).fetched = d.fetched := by
  unfold seEnd; split <;> rfl
@[simp] theorem seEnd_pinHsync (c : Config) (d : Driver) : (seEnd c d).pinHsync = d.pinHsync := by
  unfold seEnd; split <;> rfl
@[simp] theorem seEnd_pinVsync (c : Config) (d : Driver) : (seEnd c d).pinVsync = d.pinVsync := by
  unfold seEnd; split <;> rfl
@[simp] theorem seEnd_pinColor (c : Config) (d : Driver) : (seEnd c d).pinColor = d.pinColor := by
  unfold seEnd; split <;> rfl
@[simp] theorem seEnd_fb (c : Config) (d : Driver) : (seEnd c d).fb = d.fb := by
  unfold seEnd; split <;> rfl
@[simp] theorem seEnd_fillNext (c : Config) (d : Driver) : (seEnd c d).fillNext = d.fillNext := by
  unfold seEnd; split <;> rfl
@[simp] theorem seEnd_rsp (c : Config) (d : Driver) : (seEnd c d).rsp = d.rsp := by
  unfold seEnd; split <;> rfl

/-! ## The control fields CONSTRUCT writes (43_driver_lifecycle.md R200) -/

@[simp] theorem constructed_constructed (col hs vs : Pin) (d : Driver) :
    (constructed col hs vs d).constructed = true := rfl
@[simp] theorem constructed_lcState (col hs vs : Pin) (d : Driver) :
    (constructed col hs vs d).lcState = .idle := rfl
@[simp] theorem constructed_cfgMode (col hs vs : Pin) (d : Driver) :
    (constructed col hs vs d).cfgMode = d.cfgMode := rfl
@[simp] theorem constructed_cfgColPin (col hs vs : Pin) (d : Driver) :
    (constructed col hs vs d).cfgColPin = col := rfl
@[simp] theorem constructed_cfgHsPin (col hs vs : Pin) (d : Driver) :
    (constructed col hs vs d).cfgHsPin = hs := rfl
@[simp] theorem constructed_cfgVsPin (col hs vs : Pin) (d : Driver) :
    (constructed col hs vs d).cfgVsPin = vs := rfl
@[simp] theorem constructed_tcArmed (col hs vs : Pin) (d : Driver) :
    (constructed col hs vs d).tcArmed = false := rfl
@[simp] theorem constructed_seArmed (col hs vs : Pin) (d : Driver) :
    (constructed col hs vs d).seArmed = false := rfl
@[simp] theorem constructed_hcount (col hs vs : Pin) (d : Driver) :
    (constructed col hs vs d).hcount = 0 := rfl
@[simp] theorem constructed_vcount (col hs vs : Pin) (d : Driver) :
    (constructed col hs vs d).vcount = 0 := rfl
@[simp] theorem constructed_scanBusy (col hs vs : Pin) (d : Driver) :
    (constructed col hs vs d).scanBusy = false := rfl
@[simp] theorem constructed_scanLine (col hs vs : Pin) (d : Driver) :
    (constructed col hs vs d).scanLine = d.scanLine := rfl
@[simp] theorem constructed_shreg (col hs vs : Pin) (d : Driver) :
    (constructed col hs vs d).shreg = d.shreg := rfl
@[simp] theorem constructed_rowbuf (col hs vs : Pin) (d : Driver) :
    (constructed col hs vs d).rowbuf = d.rowbuf := rfl
@[simp] theorem constructed_fetched (col hs vs : Pin) (d : Driver) :
    (constructed col hs vs d).fetched = d.fetched := rfl
@[simp] theorem constructed_pinHsync (col hs vs : Pin) (d : Driver) :
    (constructed col hs vs d).pinHsync = d.pinHsync := rfl
@[simp] theorem constructed_pinVsync (col hs vs : Pin) (d : Driver) :
    (constructed col hs vs d).pinVsync = d.pinVsync := rfl
@[simp] theorem constructed_pinColor (col hs vs : Pin) (d : Driver) :
    (constructed col hs vs d).pinColor = d.pinColor := rfl
@[simp] theorem constructed_fb (col hs vs : Pin) (d : Driver) :
    (constructed col hs vs d).fb = [] := rfl
@[simp] theorem constructed_fillNext (col hs vs : Pin) (d : Driver) :
    (constructed col hs vs d).fillNext = d.fillNext := rfl
@[simp] theorem constructed_rsp (col hs vs : Pin) (d : Driver) :
    (constructed col hs vs d).rsp = d.rsp := rfl

/-! ## The reset state of an instance (10_state.md R50; 43_driver_lifecycle.md R202) -/

@[simp] theorem resetDriver_constructed (c : Config) (n : Nat) : (resetDriver c n).constructed = false := rfl
@[simp] theorem resetDriver_lcState (c : Config) (n : Nat) : (resetDriver c n).lcState = .idle := rfl
@[simp] theorem resetDriver_cfgMode (c : Config) (n : Nat) : (resetDriver c n).cfgMode = 0 := rfl
@[simp] theorem resetDriver_cfgColPin (c : Config) (n : Nat) : (resetDriver c n).cfgColPin = 0 := rfl
@[simp] theorem resetDriver_cfgHsPin (c : Config) (n : Nat) : (resetDriver c n).cfgHsPin = 0 := rfl
@[simp] theorem resetDriver_cfgVsPin (c : Config) (n : Nat) : (resetDriver c n).cfgVsPin = 0 := rfl
@[simp] theorem resetDriver_tcArmed (c : Config) (n : Nat) : (resetDriver c n).tcArmed = false := rfl
@[simp] theorem resetDriver_seArmed (c : Config) (n : Nat) : (resetDriver c n).seArmed = false := rfl
@[simp] theorem resetDriver_hcount (c : Config) (n : Nat) : (resetDriver c n).hcount = 0 := rfl
@[simp] theorem resetDriver_vcount (c : Config) (n : Nat) : (resetDriver c n).vcount = 0 := rfl
@[simp] theorem resetDriver_scanBusy (c : Config) (n : Nat) : (resetDriver c n).scanBusy = false := rfl
@[simp] theorem resetDriver_scanLine (c : Config) (n : Nat) : (resetDriver c n).scanLine = 0 := rfl
@[simp] theorem resetDriver_shreg (c : Config) (n : Nat) : (resetDriver c n).shreg = 0 := rfl
@[simp] theorem resetDriver_rowbuf (c : Config) (n : Nat) : (resetDriver c n).rowbuf = [] := rfl
@[simp] theorem resetDriver_fetched (c : Config) (n : Nat) : (resetDriver c n).fetched = [] := rfl
@[simp] theorem resetDriver_pinHsync (c : Config) (n : Nat) : (resetDriver c n).pinHsync = .z := rfl
@[simp] theorem resetDriver_pinVsync (c : Config) (n : Nat) : (resetDriver c n).pinVsync = .z := rfl
@[simp] theorem resetDriver_pinColor (c : Config) (n : Nat) : (resetDriver c n).pinColor = .z := rfl
@[simp] theorem resetDriver_fb (c : Config) (n : Nat) : (resetDriver c n).fb = unspecifiedFb c n := rfl
@[simp] theorem resetDriver_fillNext (c : Config) (n : Nat) : (resetDriver c n).fillNext = none := rfl
@[simp] theorem resetDriver_rsp (c : Config) (n : Nat) : (resetDriver c n).rsp = none := rfl

end Sys2Proof.Machine
end

