-- ==== Sys2Proof/Laws/Commands.lean ====
section
/-! SUPPORT. Everything a command can do when it answers a next state: the shared checks, the `FILL` pass, and one
lemma for each meaning (40_framebuffer.md R120 to R126; 43_driver_lifecycle.md R200 to R208). -/

namespace Sys2Proof.Machine

theorem whenHostIdle_eq_next {s t : State} {r : Result} :
    whenHostIdle s r = .next t ↔ s.self.fillNext = none ∧ r = .next t := by
  unfold whenHostIdle
  cases s.self.fillNext <;> simp

theorem whenConstructed_eq_next {s t : State} {r : Result} :
    whenConstructed s r = .next t ↔ s.self.fillNext = none ∧ s.self.constructed = true ∧ r = .next t := by
  rw [whenConstructed, whenHostIdle_eq_next]
  cases s.self.constructed <;> simp

/-- The checks shared by every command but `CONSTRUCT` pass on a constructed instance with no pass in progress. -/
theorem whenConstructed_pass {s : State} (hf : s.self.fillNext = none) (hc : s.self.constructed = true) (r : Result) :
    whenConstructed s r = r := by
  simp [whenConstructed, whenHostIdle, hf, hc]

theorem withFb_eq_next {s t : State} {m : Except Fault Memory} {k : State → Result} :
    withFb s m k = .next t ↔ ∃ m', m = .ok m' ∧ k { s with self := { s.self with fb := m' } } = .next t := by
  unfold withFb
  cases m <;> simp

theorem returnOk_eq_next {s t : State} : returnOk s = .next t ↔ t = s.respond .ok false := by
  simp [returnOk, eq_comm]

theorem raiseError_eq_next {s t : State} {e : Status} : raiseError e s = .next t ↔ t = s.respond e false := by
  simp [raiseError, eq_comm]

/-- All that one byte write of a `FILL` pass can do (R125). -/
theorem fillWrite_eq_next {p : FillPass} {s t : State} :
    fillWrite p s = .next t ↔ p.next < s.cfg.nbytes ∧
      ((p.next + 1 < s.cfg.nbytes ∧ t = { s with self := { s.self with
          fb := s.self.fb.write p.next (fillByte p.value), fillNext := some ⟨p.value, p.next + 1⟩, rsp := none } }) ∨
       (s.cfg.nbytes ≤ p.next + 1 ∧ t = { s with self := { s.self with
          fb := s.self.fb.write p.next (fillByte p.value), fillNext := none, rsp := some ⟨.ok, false⟩ } })) := by
  rw [fillWrite, withFb_eq_next]
  constructor
  · rintro ⟨m, hm, ht⟩
    obtain ⟨hlt, rfl⟩ := fbWrite_eq_ok.1 hm
    refine ⟨hlt, ?_⟩
    split at ht
    · rename_i h1; cases ht; exact .inl ⟨h1, rfl⟩
    · rename_i h1; cases ht; exact .inr ⟨by exact Nat.le_of_not_lt h1, rfl⟩
  · rintro ⟨hlt, ⟨h1, rfl⟩ | ⟨h1, rfl⟩⟩
    · exact ⟨_, fbWrite_ok hlt, if_pos h1⟩
    · exact ⟨_, fbWrite_ok hlt, if_neg (by simpa using h1)⟩

/-- All that an out-of-range write can do (R121). -/
theorem outOfRangeWrite_eq_next {s t : State} :
    outOfRangeWrite s = .next t ↔
      (s.cfg.oobPolicy = .fail ∧ t = s.respond .outOfBounds false) ∨
      (s.cfg.oobPolicy = .clip ∧ t = s.respond .ok false) := by
  unfold outOfRangeWrite
  cases s.cfg.oobPolicy <;> simp [raiseError_eq_next, returnOk_eq_next]

/-- All that `SET_PIXEL` and `CLEAR_PIXEL` can do (R122, R123). -/
theorem writePixel_eq_next {b : Bool} {x : BitVec 16} {y : BitVec 12} {s t : State} :
    writePixel b x y s = .next t ↔ s.self.fillNext = none ∧ s.self.constructed = true ∧
      ((pixelInRange s.cfg x y = true ∧ ∃ m, pixWrite s.cfg s.self.fb y.toNat x.toNat b = .ok m ∧
          t = State.respond { s with self := { s.self with fb := m } } .ok false) ∨
       (pixelInRange s.cfg x y = false ∧ outOfRangeWrite s = .next t)) := by
  rw [writePixel, whenConstructed_eq_next]
  refine and_congr_right fun _ => and_congr_right fun _ => ?_
  cases pixelInRange s.cfg x y <;> simp [withFb_eq_next, returnOk_eq_next]

/-- All that `GET_PIXEL` can do (R124). -/
theorem execGetPixel_eq_next {x : BitVec 16} {y : BitVec 12} {s t : State} :
    execGetPixel x y s = .next t ↔ s.self.fillNext = none ∧ s.self.constructed = true ∧
      ((pixelInRange s.cfg x y = true ∧ ∃ b, pixRead s.cfg s.self.fb y.toNat x.toNat = .ok b ∧ t = s.respond .ok b) ∨
       (pixelInRange s.cfg x y = false ∧ t = s.respond .outOfBounds false)) := by
  rw [execGetPixel, whenConstructed_eq_next]
  refine and_congr_right fun _ => and_congr_right fun _ => ?_
  cases pixelInRange s.cfg x y
  · simp [raiseError_eq_next]
  · cases h : pixRead s.cfg s.self.fb y.toNat x.toNat <;> simp [eq_comm]

/-- All that the command of a `FILL` can do (R125). -/
theorem execFill_eq_next {v : BitVec 1} {s t : State} :
    execFill v s = .next t ↔ s.self.fillNext = none ∧ s.self.constructed = true ∧
      fillWrite ⟨v == 1, 0⟩ s = .next t :=
  whenConstructed_eq_next

/-- All that `WRITE_ROW_BYTE` can do (R126). -/
theorem execWriteRowByte_eq_next {y : BitVec 12} {k d : BitVec 8} {s t : State} :
    execWriteRowByte y k d s = .next t ↔ s.self.fillNext = none ∧ s.self.constructed = true ∧
      ((rowByteInRange s.cfg y k = true ∧ ∃ m, fbWrite s.cfg s.self.fb (rowByteAddress s.cfg y.toNat k.toNat) d = .ok m ∧
          t = State.respond { s with self := { s.self with fb := m } } .ok false) ∨
       (rowByteInRange s.cfg y k = false ∧ outOfRangeWrite s = .next t)) := by
  rw [execWriteRowByte, whenConstructed_eq_next]
  refine and_congr_right fun _ => and_congr_right fun _ => ?_
  cases rowByteInRange s.cfg y k <;> simp [withFb_eq_next, returnOk_eq_next]

/-- All that `CONSTRUCT` can do (R200). -/
theorem execConstruct_eq_next {mode : BitVec 4} {col hs vs : Pin} {s t : State} :
    execConstruct mode col hs vs s = .next t ↔
      s.self.fillNext = none ∧ s.self.constructed = false ∧ s.cfg.wf = true ∧
      ((mode = s.cfg.modeVga640 ∧
          t = (s.withSelf (constructed col hs vs { s.self with cfgMode := mode })).respond .ok false) ∨
       (mode ≠ s.cfg.modeVga640 ∧ t = s.respond .modeUnsupported false)) := by
  rw [execConstruct, whenHostIdle_eq_next]
  refine and_congr_right fun _ => ?_
  cases s.self.constructed <;> cases s.cfg.wf <;> simp [tcConfigure]
  by_cases h : mode = s.cfg.modeVga640 <;> simp [h, returnOk_eq_next, raiseError_eq_next]

/-- All that `DESTROY` can do (R202). -/
theorem execDestroy_eq_next {s t : State} :
    execDestroy s = .next t ↔ s.self.fillNext = none ∧ s.self.constructed = true ∧ s.self.lcState = .idle ∧
      t = State.respond { s with self := resetDriver s.cfg s.draws, draws := s.draws + 1 } .ok false := by
  rw [execDestroy, whenConstructed_eq_next]
  refine and_congr_right fun _ => and_congr_right fun _ => ?_
  cases s.self.lcState <;> simp [returnOk_eq_next]

/-- All that the two arms of `START` can do (R204 to R206). -/
theorem startArms_eq_next {s t : State} :
    startArms s = .next t ↔
      (∃ e, tcArm s.cfg s.pool s.self = .error e ∧ t = s.respond e false) ∨
      (∃ P d e, tcArm s.cfg s.pool s.self = .ok (P, d) ∧ seArm s.cfg P d = .error e ∧
        t = State.respond { s with pool := (tcDisarm s.cfg P d).1, self := (tcDisarm s.cfg P d).2 } e false) ∨
      (∃ P d P' d', tcArm s.cfg s.pool s.self = .ok (P, d) ∧ seArm s.cfg P d = .ok (P', d') ∧
        t = State.respond { s with pool := P', self := { d' with lcState := .running } } .ok false) := by
  unfold startArms
  cases h1 : tcArm s.cfg s.pool s.self with
  | error e => simp [raiseError_eq_next]
  | ok r =>
    obtain ⟨P, d⟩ := r
    cases h2 : seArm s.cfg P d with
    | error e => simp [raiseError_eq_next, h2]
    | ok r => obtain ⟨P', d'⟩ := r; simp [returnOk_eq_next, h2]

/-- All that `START` can do (R204). -/
theorem execStart_eq_next {s t : State} :
    execStart s = .next t ↔ s.self.fillNext = none ∧ s.self.constructed = true ∧
      ((s.self.lcState = .running ∧ t = s.respond .alreadyRunning false) ∨
       (s.self.lcState = .idle ∧ frameBufferFits s.cfg = true ∧ startArms s = .next t)) := by
  rw [execStart, whenConstructed_eq_next]
  refine and_congr_right fun _ => and_congr_right fun _ => ?_
  cases s.self.lcState <;> cases frameBufferFits s.cfg <;> simp [raiseError_eq_next]

/-- All that `STOP` can do (R208). -/
theorem execStop_eq_next {s t : State} :
    execStop s = .next t ↔ s.self.fillNext = none ∧ s.self.constructed = true ∧
      ((s.self.lcState = .idle ∧ t = s.respond .notRunning false) ∨
       (s.self.lcState = .running ∧ t = State.respond { s with
          pool := (stopArms s.cfg s.pool s.self).1,
          self := { (stopArms s.cfg s.pool s.self).2 with lcState := .idle } } .ok false)) := by
  rw [execStop, whenConstructed_eq_next]
  refine and_congr_right fun _ => and_congr_right fun _ => ?_
  cases s.self.lcState <;> simp [raiseError_eq_next, returnOk_eq_next]

end Sys2Proof.Machine
end

