-- ==== Sys2Proof/Laws/PerInstr.lean ====
section
/-! SUPPORT. For each command: its encoding matches its own row of the opcode map and no other (30_encoding.md R94: "No two
rows of rule R94 overlap, because their `op` values differ", R96). -/

namespace Sys2Proof.Laws.OwnRow

/-- The encoding hits the command's own row, and the row is the one with that mnemonic in the map. -/
def Statement (i : Instr) : Prop :=
  i.row.hits (encode i) = true ∧ i.row ∈ opcodeMap ∧ i.row.mnemonic = i.mnemonic ∧
    ∀ r ∈ opcodeMap, r.hits (encode i) = true → r = i.row

/-- A word that hits a row of the map carries the row's `op` in bits 31:28. -/
theorem op_of_hits {r : OpRow} (hr : r ∈ opcodeMap) {w : Word} (h : r.hits w = true) : w.extractLsb' 28 4 = r.op := by
  have hw : w &&& r.mask = r.matchBits := by simpa [OpRow.hits] using h
  have key : r.mask.extractLsb' 28 4 = 0xF#4 ∧ r.matchBits.extractLsb' 28 4 = r.op := by
    have hall : ∀ r ∈ opcodeMap, r.mask.extractLsb' 28 4 = 0xF#4 ∧ r.matchBits.extractLsb' 28 4 = r.op := by decide
    exact hall r hr
  calc w.extractLsb' 28 4 = w.extractLsb' 28 4 &&& 0xF#4 := by
        ext i hi; interval_cases i <;> simp
    _ = (w &&& r.mask).extractLsb' 28 4 := by rw [BitVec.extractLsb'_and, key.1]
    _ = r.op := by rw [hw, key.2]

/-- Two rows of the map with the same `op` are the same row. -/
theorem row_of_op : ∀ r ∈ opcodeMap, ∀ r' ∈ opcodeMap, r.op = r'.op → r = r' := by decide

/-- The statement follows from hitting one's own row. -/
theorem of_hits {i : Instr} (hrow : i.row ∈ opcodeMap) (hm : i.row.mnemonic = i.mnemonic)
    (h : i.row.hits (encode i) = true) : Statement i :=
  ⟨h, hrow, hm, fun r hr hh => row_of_op r hr i.row hrow ((op_of_hits hr hh).symm.trans (op_of_hits hrow h))⟩

theorem construct (mode : BitVec 4) (colPin hsPin vsPin : Pin) : Statement (.construct mode colPin hsPin vsPin) := by
  refine of_hits (by simp [Instr.row, opcodeMap]) rfl ?_
  simp only [OpRow.hits, Instr.row, rowConstruct, encode, beq_iff_eq]
  ext i hi
  interval_cases i <;> simp [place, BitVec.getLsbD_of_ge]

theorem destroy : Statement .destroy := of_hits (by decide) rfl (by decide)

theorem start : Statement .start := of_hits (by decide) rfl (by decide)

theorem stop : Statement .stop := of_hits (by decide) rfl (by decide)

theorem setPixel (x : BitVec 16) (y : BitVec 12) : Statement (.setPixel x y) := by
  refine of_hits (by simp [Instr.row, opcodeMap]) rfl ?_
  simp only [OpRow.hits, Instr.row, rowSetPixel, encode, beq_iff_eq]
  ext i hi
  interval_cases i <;> simp [place]

theorem clearPixel (x : BitVec 16) (y : BitVec 12) : Statement (.clearPixel x y) := by
  refine of_hits (by simp [Instr.row, opcodeMap]) rfl ?_
  simp only [OpRow.hits, Instr.row, rowClearPixel, encode, beq_iff_eq]
  ext i hi
  interval_cases i <;> simp [place]

theorem getPixel (x : BitVec 16) (y : BitVec 12) : Statement (.getPixel x y) := by
  refine of_hits (by simp [Instr.row, opcodeMap]) rfl ?_
  simp only [OpRow.hits, Instr.row, rowGetPixel, encode, beq_iff_eq]
  ext i hi
  interval_cases i <;> simp [place]

theorem fill (v : BitVec 1) : Statement (.fill v) := by
  refine of_hits (by simp [Instr.row, opcodeMap]) rfl ?_
  simp only [OpRow.hits, Instr.row, rowFill, encode, beq_iff_eq]
  ext i hi
  interval_cases i <;> simp [place]

theorem writeRowByte (y : BitVec 12) (k d : BitVec 8) : Statement (.writeRowByte y k d) := by
  refine of_hits (by simp [Instr.row, opcodeMap]) rfl ?_
  simp only [OpRow.hits, Instr.row, rowWriteRowByte, encode, beq_iff_eq]
  ext i hi
  interval_cases i <;> simp [place]

end Sys2Proof.Laws.OwnRow
end

