-- ==== Sys2Proof/Laws/Tick.lean ====
section
/-! SUPPORT. Everything a TICK can do (41_timing_controller.md R147, R158; 42_scanout_engine.md R171, R185): the counters'
next value, which fields a fetch touches, when a fetch is inside the framebuffer, and the frame of the whole step. -/

namespace Sys2Proof.Machine

/-! ## Parameters -/

/-- The constraints a well-formed set of parameters meets, as arithmetic (00_scope.md R8). -/
theorem Config.wf_iff {c : Config} : c.wf = true ↔
    c.hSync + c.hBack + c.hActive + c.hFront = c.hTotal ∧ c.vSync + c.vBack + c.vActive + c.vFront = c.vTotal ∧
    1 ≤ c.hSync ∧ 1 ≤ c.hActive ∧ 1 ≤ c.vSync ∧ 1 ≤ c.vActive ∧ c.width = c.hActive ∧ c.height = c.vActive ∧
    c.width % 8 = 0 ∧ c.hTotal ≤ 1024 ∧ c.vTotal ≤ 1024 ∧ c.height ≤ 512 ∧ c.lbLatency ≤ c.h0 ∧
    c.colorActive ≠ c.colorInactive ∧ c.doubleBuffer = false ∧ c.pinBits = 6 := by
  simp [Config.wf, Config.hSumOk, Config.vSumOk, Config.countsOk, Config.sizeOk, Config.widthOk, Config.registersOk,
    Config.latencyOk, Config.levelsOk, Config.singleBuffered, Config.pinBitsOk, and_assoc]

/-- A row's bytes lie inside the framebuffer when `W mod 8 = 0` (20_memory.md R65, R83). -/
theorem rowByteAddress_lt {c : Config} (hw : c.width % 8 = 0) {line k : Nat} (hl : line < c.height)
    (hk : k < c.rowBytes) : rowByteAddress c line k < c.nbytes := by
  obtain ⟨q, hq⟩ := Nat.dvd_of_mod_eq_zero hw
  have hrow : c.rowBytes = q := by unfold Config.rowBytes; omega
  have hbytes : c.nbytes = q * c.height := by
    unfold Config.nbytes
    rw [hq, Nat.mul_assoc]
    omega
  rw [hrow] at hk
  rw [rowByteAddress, hrow, hbytes]
  calc line * q + k < line * q + q := by omega
    _ = q * (line + 1) := by ring
    _ ≤ q * c.height := Nat.mul_le_mul_left _ hl

/-- The byte of an in-range pixel lies inside the framebuffer (R83). -/
theorem pixelByte_lt {c : Config} {row column : Nat} (hr : row < c.height) (hc : column < c.width) :
    pixelByte c row column < c.nbytes := by
  have hle : row * c.width + column + 1 ≤ c.width * c.height := by
    calc row * c.width + column + 1 ≤ row * c.width + c.width := by omega
      _ = c.width * (row + 1) := by ring
      _ ≤ c.width * c.height := Nat.mul_le_mul_left _ hr
  unfold pixelByte pixelIndex Config.nbytes
  omega

/-- With `W mod 8 = 0` a pixel's byte and bit are those of its row and column (R61). -/
theorem pixelByte_eq {c : Config} (hw : c.width % 8 = 0) (row column : Nat) :
    pixelByte c row column = rowByteAddress c row (column / 8) := by
  obtain ⟨q, hq⟩ := Nat.dvd_of_mod_eq_zero hw
  have hrow : c.rowBytes = q := by unfold Config.rowBytes; omega
  rw [pixelByte, pixelIndex, rowByteAddress, hrow, hq, show row * (8 * q) = 8 * (row * q) by ring]
  omega

theorem pixelBit_eq {c : Config} (hw : c.width % 8 = 0) (row column : Nat) :
    pixelBit c row column = column % 8 := by
  obtain ⟨q, hq⟩ := Nat.dvd_of_mod_eq_zero hw
  rw [pixelBit, pixelIndex, hq, show row * (8 * q) = 8 * (row * q) by ring]
  omega

/-! ## The counters -/

/-- `hcount` after a TICK (R147): it wraps at `H_TOTAL`. -/
theorem advancePosition_hcount {c : Config} {d : Driver} (hc : c.hTotal ≤ 1024) (hh : d.hcount.toNat < c.hTotal) :
    (advancePosition c d).hcount.toNat = if d.hcount.toNat = c.hTotal - 1 then 0 else d.hcount.toNat + 1 := by
  simp only [advancePosition]
  split
  · rfl
  · rw [BitVec.toNat_add, show (1 : BitVec 10).toNat = 1 from rfl]
    omega

/-- `vcount` after a TICK (R147): it moves when `hcount` wraps, and wraps at `V_TOTAL`. -/
theorem advancePosition_vcount {c : Config} {d : Driver} (hc : c.vTotal ≤ 1024) (hv : d.vcount.toNat < c.vTotal) :
    (advancePosition c d).vcount.toNat =
      if d.hcount.toNat = c.hTotal - 1 then (if d.vcount.toNat = c.vTotal - 1 then 0 else d.vcount.toNat + 1)
      else d.vcount.toNat := by
  simp only [advancePosition]
  split
  · split
    · rfl
    · rw [BitVec.toNat_add, show (1 : BitVec 10).toNat = 1 from rfl]
      omega
  · rfl

/-! ## The fetch -/

/-- All that a fetch can do, whatever the policy: it changes the serializer's latches and nothing else. -/
theorem seFetch_frame {c : Config} {n : Nat} {d d' : Driver} (h : seFetch c n d = .ok d') :
    d' = { d with shreg := d'.shreg, rowbuf := d'.rowbuf, fetched := d'.fetched } := by
  unfold seFetch at h
  split at h
  · unfold fetchJit at h
    split at h
    · split at h
      · cases h; rfl
      · cases h
    · cases h; rfl
  · unfold fetchRow at h
    split at h
    · split at h
      · cases h; rfl
      · cases h
    · cases h; rfl
  · unfold fetchAny at h
    split at h
    · split at h
      · cases h; rfl
      · cases h
    · cases h; rfl

/-- Latching bytes of a row that exists succeeds. -/
theorem latchBytes_ok {c : Config} (hw : c.width % 8 = 0) {d : Driver} (hl : d.scanLine.toNat < c.height)
    {ks : List Nat} (hk : ∀ k ∈ ks, k < c.rowBytes) (buf : Memory) : ∃ buf', latchBytes c d ks buf = .ok buf' := by
  induction ks generalizing buf with
  | nil => exact ⟨buf, rfl⟩
  | cons k ks ih =>
    rw [latchBytes, show scanAddress c d k = rowByteAddress c d.scanLine.toNat k from rfl,
      fbRead_ok (rowByteAddress_lt hw hl (hk k (List.mem_cons_self ..)))]
    exact ih (fun k hk' => hk k (List.mem_cons_of_mem _ hk')) _

/-- The latch after latching: each listed byte holds the row's byte, every other byte is kept. -/
theorem latchBytes_read {c : Config} {d : Driver} {ks : List Nat} {buf buf' : Memory} (hwf : buf.wf = true)
    (h : latchBytes c d ks buf = .ok buf') :
    buf'.wf = true ∧ ∀ k, buf'.read k = if k ∈ ks then d.fb.read (scanAddress c d k) else buf.read k := by
  induction ks generalizing buf with
  | nil => cases h; exact ⟨hwf, fun k => by simp⟩
  | cons j ks ih =>
    rw [latchBytes] at h
    split at h
    · rename_i v hv
      obtain ⟨hwf', hread⟩ := ih (Memory.wf_write hwf j v) h
      obtain ⟨-, rfl⟩ := fbRead_eq_ok.1 hv
      refine ⟨hwf', fun k => ?_⟩
      rw [hread]
      by_cases hk : k ∈ ks
      · rw [if_pos hk, if_pos (List.mem_cons_of_mem _ hk)]
      · rw [if_neg hk, Memory.read_write hwf]
        by_cases hkj : k = j
        · subst hkj; rw [if_pos rfl, if_pos (List.mem_cons_self ..)]
        · rw [if_neg hkj, if_neg]
          exact fun hm => (List.mem_cons.1 hm).elim hkj hk
    · cases h

/-- A fetch of a row that exists never leaves the framebuffer (R68, R173). -/
theorem seFetch_ok {c : Config} (hw : c.width % 8 = 0) (n : Nat) {d : Driver}
    (hl : d.scanBusy = true → d.scanLine.toNat < c.height) : ∃ d', seFetch c n d = .ok d' := by
  unfold seFetch
  split
  · unfold fetchJit
    split
    · rename_i hcond
      simp only [Bool.and_eq_true, pixelPeriod, decide_eq_true_eq] at hcond
      have hk : (d.hcount.toNat - c.h0) / 8 < c.rowBytes := by unfold Config.rowBytes; omega
      rw [show scanAddress c d _ = rowByteAddress c d.scanLine.toNat _ from rfl,
        fbRead_ok (rowByteAddress_lt hw (hl hcond.1.1) hk)]
      exact ⟨_, rfl⟩
    · exact ⟨d, rfl⟩
  · unfold fetchRow
    split
    · rename_i hcond
      rw [Bool.and_eq_true] at hcond
      obtain ⟨buf, hbuf⟩ := latchBytes_ok hw (hl hcond.2) (fun k hk => List.mem_range.1 hk) d.rowbuf
      rw [hbuf]
      exact ⟨_, rfl⟩
    · exact ⟨d, rfl⟩
  · unfold fetchAny
    split
    · rename_i hcond
      obtain ⟨buf, hbuf⟩ := latchBytes_ok hw (hl hcond)
        (ks := fetchesAny c n d) (fun k hk => List.mem_range.1 (List.mem_filter.1 hk).1) d.rowbuf
      rw [hbuf]
      exact ⟨_, rfl⟩
    · exact ⟨d, rfl⟩

/-! ## The colour -/

@[simp] theorem scanLevel_seShow (c : Config) (d : Driver) : scanLevel c (seShow c d) = scanLevel c d := rfl

/-- The row ends outside its pixel periods, so its end leaves the colour level alone (R176). -/
@[simp] theorem scanLevel_seEnd (c : Config) (d : Driver) : scanLevel c (seEnd c d) = scanLevel c d := by
  unfold seEnd
  split
  · rename_i h
    rw [Bool.and_eq_true, beq_iff_eq] at h
    have hp : pixelPeriod c d.hcount.toNat = false := by simp [pixelPeriod, h.2]
    simp only [scanLevel, hp, Bool.and_false, Bool.false_eq_true, if_false]
  · rfl

/-! ## The step -/

/-- All that `SE.tick` can do (R171). -/
theorem seTick_eq_ok {c : Config} {n : Nat} {d d' : Driver} :
    seTick c n d = .ok d' ↔ ∃ e, seFetch c n (seBegin c d) = .ok e ∧ d' = seEnd c (seShow c e) := by
  unfold seTick
  split
  · rename_i e he
    simp only [Except.ok.injEq, he, exists_eq_left']
    exact eq_comm
  · rename_i f hf
    simp [hf]

/-- All that a TICK can do (R147, R158). -/
theorem tick_eq_ok {c : Config} {n : Nat} {d d' : Driver} :
    tick c n d = .ok d' ↔
      (d.tcArmed = false ∧ d' = d) ∨ (d.tcArmed = true ∧ d.seArmed = false ∧ d' = advancePosition c d) ∨
      (d.tcArmed = true ∧ d.seArmed = true ∧ seTick c n (advancePosition c d) = .ok d') := by
  unfold tick
  cases d.tcArmed <;> cases d.seArmed <;> simp [eq_comm]

/-- `SE.tick` changes the scanout state, its latches and the colour pin, and nothing else (42_scanout_engine.md R186). -/
theorem seTick_frame {c : Config} {n : Nat} {d d' : Driver} (h : seTick c n d = .ok d') :
    d' = { d with
      scanBusy := d'.scanBusy, scanLine := d'.scanLine, shreg := d'.shreg, rowbuf := d'.rowbuf, fetched := d'.fetched,
      pinColor := d'.pinColor } := by
  obtain ⟨e, he, rfl⟩ := seTick_eq_ok.1 h
  have hf := seFetch_frame he
  cases e
  simp only [Driver.mk.injEq, seBegin_constructed, seBegin_lcState, seBegin_cfgMode, seBegin_cfgColPin, seBegin_cfgHsPin,
    seBegin_cfgVsPin, seBegin_tcArmed, seBegin_seArmed, seBegin_hcount, seBegin_vcount, seBegin_pinHsync,
    seBegin_pinVsync, seBegin_pinColor, seBegin_fb, seBegin_fillNext, seBegin_rsp] at hf
  simp_all only [seEnd, seShow]
  split <;> simp_all

end Sys2Proof.Machine
end

