-- ==== Sys2Proof/Laws/Step.lean ====
section
/-! SUPPORT. Everything a step can do when it answers a next state: the action of an instance, the addressing of an
instance, the pixel clock at every instance, and the schedule (00_scope.md R12, 20_memory.md R76). -/

namespace Sys2Proof.Machine

/-- All that an out-of-range write leaves alone. -/
theorem outOfRangeWrite_frame {s t : State} (h : outOfRangeWrite s = .next t) :
    t = { s with self := { s.self with rsp := t.self.rsp } } := by
  rcases outOfRangeWrite_eq_next.1 h with ⟨-, rfl⟩ | ⟨-, rfl⟩ <;> rfl

/-- All that one byte write of a `FILL` pass leaves alone. -/
theorem fillWrite_frame {p : FillPass} {s t : State} (h : fillWrite p s = .next t) :
    t = { s with self := { s.self with fb := t.self.fb, fillNext := t.self.fillNext, rsp := t.self.rsp } } := by
  obtain ⟨-, ⟨-, rfl⟩ | ⟨-, rfl⟩⟩ := fillWrite_eq_next.1 h <;> rfl

/-- What every command leaves alone: the parameters, the other instances and the schedule. -/
theorem exec_frame {i : Instr} {s t : State} (h : exec i s = .next t) :
    t.cfg = s.cfg ∧ t.peers = s.peers ∧ t.input = s.input := by
  have hoor : outOfRangeWrite s = .next t → t.cfg = s.cfg ∧ t.peers = s.peers ∧ t.input = s.input := fun h => by
    rw [outOfRangeWrite_frame h]; exact ⟨rfl, rfl, rfl⟩
  have hpix : ∀ b x y, writePixel b x y s = .next t → t.cfg = s.cfg ∧ t.peers = s.peers ∧ t.input = s.input := by
    intro b x y h
    obtain ⟨-, -, ⟨-, m, -, rfl⟩ | ⟨-, h⟩⟩ := writePixel_eq_next.1 h
    · exact ⟨rfl, rfl, rfl⟩
    · exact hoor h
  cases i with
  | construct mode col hs vs =>
    obtain ⟨-, -, -, ⟨-, rfl⟩ | ⟨-, rfl⟩⟩ := execConstruct_eq_next.1 h <;> exact ⟨rfl, rfl, rfl⟩
  | destroy =>
    obtain ⟨-, -, -, rfl⟩ := execDestroy_eq_next.1 h
    exact ⟨rfl, rfl, rfl⟩
  | start =>
    obtain ⟨-, -, ⟨-, rfl⟩ | ⟨-, -, h⟩⟩ := execStart_eq_next.1 h
    · exact ⟨rfl, rfl, rfl⟩
    · rcases startArms_eq_next.1 h with ⟨e, -, rfl⟩ | ⟨P, d, e, -, -, rfl⟩ | ⟨P, d, P', d', -, -, rfl⟩ <;>
        exact ⟨rfl, rfl, rfl⟩
  | stop =>
    obtain ⟨-, -, ⟨-, rfl⟩ | ⟨-, rfl⟩⟩ := execStop_eq_next.1 h <;> exact ⟨rfl, rfl, rfl⟩
  | setPixel x y => exact hpix _ _ _ h
  | clearPixel x y => exact hpix _ _ _ h
  | getPixel x y =>
    obtain ⟨-, -, ⟨-, b, -, rfl⟩ | ⟨-, rfl⟩⟩ := execGetPixel_eq_next.1 h <;> exact ⟨rfl, rfl, rfl⟩
  | fill v =>
    obtain ⟨-, -, h⟩ := execFill_eq_next.1 h
    rw [fillWrite_frame h]
    exact ⟨rfl, rfl, rfl⟩
  | writeRowByte y k d =>
    obtain ⟨-, -, ⟨-, m, -, rfl⟩ | ⟨-, h⟩⟩ := execWriteRowByte_eq_next.1 h
    · exact ⟨rfl, rfl, rfl⟩
    · exact hoor h

theorem perform_eq_next {w : Word} {s t : State} :
    perform w s = .next t ↔ ∃ i, decode w = .ok i ∧ exec i s = .next t := by
  unfold perform
  cases decode w <;> simp

theorem tickSelf_eq_next {s t : State} :
    tickSelf s = .next t ↔ ∃ d, tick s.cfg s.draws s.self = .ok d ∧
      t = { s with self := d, draws := s.draws + drawsPerTick s.cfg } := by
  unfold tickSelf
  cases tick s.cfg s.draws s.self <;> simp [eq_comm]

theorem continueFill_eq_next {s t : State} :
    continueFill s = .next t ↔
      (s.self.fillNext = none ∧ t = s) ∨ (∃ p, s.self.fillNext = some p ∧ fillWrite p s = .next t) := by
  unfold continueFill
  cases s.self.fillNext <;> simp [eq_comm]

/-- All that doing something at an instance can do: the others keep their state. -/
theorem atInstance_eq_next {inst : Nat} {f : State → Result} {s t : State} :
    atInstance inst f s = .next t ↔
      (inst = 0 ∧ f s = .next t) ∨
      (∃ k d u, inst = k + 1 ∧ s.peers[k]? = some d ∧ f (s.withSelf d) = .next u ∧
        t = { u with self := s.self, peers := s.peers.set k u.self }) := by
  cases inst with
  | zero => simp [atInstance]
  | succ k =>
    simp only [atInstance]
    cases h : s.peers[k]? with
    | none => simp [h]
    | some d =>
      cases hf : f (s.withSelf d) <;> simp [h, hf, eq_comm]

theorem tickPeers_cons_eq_ok {c : Config} {n : Nat} {d : Driver} {ds ds' : List Driver} :
    tickPeers c n (d :: ds) = .ok ds' ↔
      ∃ e es, tick c n d = .ok e ∧ tickPeers c (n + drawsPerTick c) ds = .ok es ∧ ds' = e :: es := by
  simp only [tickPeers]
  cases tick c n d with
  | error f => simp
  | ok e =>
    cases tickPeers c (n + drawsPerTick c) ds <;> simp [eq_comm]

theorem clockEdge_eq_next {s t : State} :
    clockEdge s = .next t ↔ ∃ d ds, tick s.cfg s.draws s.self = .ok d ∧
      tickPeers s.cfg (s.draws + drawsPerTick s.cfg) s.peers = .ok ds ∧
      t = { s with self := d, peers := ds, draws := s.draws + drawsPerTick s.cfg * (s.peers.length + 1) } := by
  unfold clockEdge
  cases tick s.cfg s.draws s.self with
  | error f => simp
  | ok d =>
    cases tickPeers s.cfg (s.draws + drawsPerTick s.cfg) s.peers <;> simp [eq_comm]

/-- All that one action of the addressed instance can do. -/
theorem act_eq_next {a : Action} {s t : State} :
    act a s = .next t ↔
      (∃ w i, a = .command w ∧ decode w = .ok i ∧ exec i s = .next t) ∨
      (a = .fillWrite ∧ continueFill s = .next t) ∨ (a = .tick ∧ tickSelf s = .next t) := by
  cases a <;> simp [act, perform_eq_next]

/-- What every action leaves alone: the parameters, the other instances and the schedule. -/
theorem act_frame {a : Action} {s t : State} (h : act a s = .next t) :
    t.cfg = s.cfg ∧ t.peers = s.peers ∧ t.input = s.input := by
  rcases act_eq_next.1 h with ⟨w, i, -, -, h⟩ | ⟨-, h⟩ | ⟨-, h⟩
  · exact exec_frame h
  · rcases continueFill_eq_next.1 h with ⟨-, rfl⟩ | ⟨p, -, h⟩
    · exact ⟨rfl, rfl, rfl⟩
    · rw [fillWrite_frame h]
      exact ⟨rfl, rfl, rfl⟩
  · obtain ⟨d, -, rfl⟩ := tickSelf_eq_next.1 h
    exact ⟨rfl, rfl, rfl⟩

/-- All that a step can do. -/
theorem step_eq_next {s t : State} :
    step s = .next t ↔
      (s.input = [] ∧ clockEdge s = .next t) ∨
      (∃ inst a es, s.input = .act inst a :: es ∧ atInstance inst (act a) { s with input := es } = .next t) ∨
      (∃ es, s.input = .reset :: es ∧ t = deviceReset { s with input := es }) := by
  unfold step advance
  cases h : s.input with
  | nil => simp
  | cons e es =>
    cases e with
    | act inst a => simp [happen, and_assoc]
    | reset =>
      simp only [happen, Host.Outcome.next.injEq, reduceCtorEq, false_and, List.cons.injEq, exists_false, false_or,
        true_and, exists_eq_left']
      exact eq_comm

/-! ## Runs (70_reset_and_hazards.md R293) -/

/-- All that one step of a run can do. -/
theorem proceed_eq_ok {s t : State} :
    proceed s = .ok t ↔
      step s = .next t ∨ ∃ why, step s = .refused why ∧ t = { s with input := s.input.tail } := by
  unfold proceed step
  cases advance s <;> simp [eq_comm]

/-- A run goes on from every state at which the step does not fault. -/
theorem proceed_isOk {s : State} (h : ∀ f, step s ≠ .fault f) : ∃ t, proceed s = .ok t := by
  unfold step at h
  unfold proceed
  cases ha : advance s with
  | next t => exact ⟨t, rfl⟩
  | refused why => exact ⟨_, rfl⟩
  | fault f => exact absurd ha (h f)

/-- After a refused step a run goes on with the events after it, and nothing else has changed. -/
theorem proceed_of_refused {s : State} {why : Refusal} (h : step s = .refused why) :
    proceed s = .ok { s with input := s.input.tail } :=
  proceed_eq_ok.2 (.inr ⟨why, h, rfl⟩)

/-- What the step of a scheduled event shows. -/
theorem stepShows_of_next {s t : State} {e : Event} {es : List Event} (hs : s.input = e :: es) (h : step s = .next t) :
    stepShows s = eventShows s t e := by
  unfold step at h
  simp only [stepShows, h, hs]

/-- What a clock edge shows. -/
theorem stepShows_of_clockEdge {s t : State} (hs : s.input = []) (h : step s = .next t) :
    stepShows s = (List.range (t.peers.length + 1)).flatMap (showPins t) := by
  unfold step at h
  simp only [stepShows, h, hs]

/-- A refused step shows nothing. -/
theorem stepShows_of_refused {s : State} {why : Refusal} (h : step s = .refused why) : stepShows s = [] := by
  unfold step at h
  simp only [stepShows, h]

/-- Every step spends the event at the front of the schedule, and no other. -/
theorem step_input {s t : State} (h : step s = .next t) : t.input = s.input.tail := by
  rcases step_eq_next.1 h with ⟨hs, h⟩ | ⟨inst, a, es, hs, h⟩ | ⟨es, hs, rfl⟩
  · obtain ⟨d, ds, -, -, rfl⟩ := clockEdge_eq_next.1 h
    simp [hs]
  · rcases atInstance_eq_next.1 h with ⟨-, hu⟩ | ⟨k, d, u, -, -, hu, rfl⟩ <;>
    simp [(act_frame hu).2.2, hs]
  · simp [deviceReset, hs]

theorem proceed_input {s t : State} (h : proceed s = .ok t) : t.input = s.input.tail := by
  rcases proceed_eq_ok.1 h with h | ⟨why, -, rfl⟩
  · exact step_input h
  · rfl

end Sys2Proof.Machine
end

