-- ==== Sys2Proof/Laws/Safety.lean ====
section
/-! SUPPORT. Laws of the terms the claims use: what the invariant says of an unconstructed instance (10_state.md R28,
R47; 43_driver_lifecycle.md R202), and that the invariants
say nothing of the schedule, and how a run unfolds (70_reset_and_hazards.md R293). -/

namespace Sys2Proof.Machine

/-- An unconstructed instance is in its reset state but for the framebuffer and the response (R202, R258). -/
theorem Driver.Inv.unbuilt_eq {c : Config} {d : Driver} (h : d.Inv c) (hc : d.constructed = false) :
    d = { Driver.reset with fb := d.fb, rsp := d.rsp } := by
  rw [← h.unbuilt hc]

/-- An unconstructed instance is idle, with nothing armed and no `FILL` pass in progress (R28 (a), R47). -/
theorem Driver.Inv.unbuilt_fields {c : Config} {d : Driver} (h : d.Inv c) (hc : d.constructed = false) :
    d.lcState = .idle ∧ d.tcArmed = false ∧ d.seArmed = false ∧ d.fillNext = none :=
  have he := h.unbuilt hc
  ⟨congrArg Driver.lcState he, congrArg Driver.tcArmed he, congrArg Driver.seArmed he, congrArg Driver.fillNext he⟩

/-- A running instance is constructed (R28 (a)). -/
theorem Driver.Inv.constructed_of_running {c : Config} {d : Driver} (h : d.Inv c) (hr : d.lcState = .running) :
    d.constructed = true := by
  cases hc : d.constructed with
  | true => rfl
  | false => rw [(h.unbuilt_fields hc).1] at hr; cases hr

/-- The invariants of the instances say nothing of the schedule. -/
theorem State.DriversInv.withInput {s : State} (h : s.DriversInv) (es : List Event) : { s with input := es }.DriversInv :=
  h

/-- The pool's conservation law says nothing of the schedule. -/
theorem State.PoolInv.withInput {s : State} (h : s.PoolInv) (es : List Event) : { s with input := es }.PoolInv :=
  ⟨h.rising, h.disjoint, h.union, h.timing, h.output⟩

theorem runSteps_zero (s : State) : runSteps 0 s = .ok s := rfl

theorem runSteps_succ_eq_ok {k : Nat} {s t : State} :
    runSteps (k + 1) s = .ok t ↔ ∃ u, proceed s = .ok u ∧ runSteps k u = .ok t := by
  rw [runSteps]
  cases proceed s <;> simp

/-- The run of a schedule is one step of a run and the run of the rest of the schedule. -/
theorem runInput_cons {e : Event} {es : List Event} {s t : State} (hs : s.input = e :: es) :
    runInput s = .ok t ↔ ∃ u, proceed s = .ok u ∧ u.input = es ∧ runInput u = .ok t := by
  rw [runInput, hs, List.length_cons, runSteps_succ_eq_ok]
  constructor
  · rintro ⟨u, hu, ht⟩
    have hi : u.input = es := by rw [proceed_input hu, hs, List.tail_cons]
    exact ⟨u, hu, hi, by rw [runInput, hi]; exact ht⟩
  · rintro ⟨u, hu, hi, ht⟩
    exact ⟨u, hu, by rw [runInput, hi] at ht; exact ht⟩

theorem runInput_nil {s : State} (hs : s.input = []) : runInput s = .ok s := by
  rw [runInput, hs]
  rfl

end Sys2Proof.Machine
end

