-- ==== Sys2Proof/Tests/Slice0.lean ====
section
/-! SUPPORT. Tests. The words, responses and levels expected are those of spec/95_test_vectors.md (the table or program named
in each docstring) or follow by hand from the rule named. The second half shows, for every statement with hypotheses, a
state and operands that meet them all. -/

namespace Sys2Proof.Tests

open Sys2Proof.Machine

/-! ## States to test on -/

/-- The state an outcome leaves, or the given one where there is none. -/
def after (r : Result) (s : State) : State :=
  match r with
  | .next t => t
  | .fault _ => s
  | .refused _ => s

/-- The answer of a command: its response and the framebuffer it leaves. -/
def answers (r : Result) (st : Status) (data : Bool) (fb : Memory) : Bool :=
  match r with
  | .next t => t.self.rsp == some ⟨st, data⟩ && t.self.fb == fb
  | .fault _ => false
  | .refused _ => false

/-- The reason an outcome is refused. -/
def refusal (r : Result) : Option Refusal :=
  match r with
  | .next _ => none
  | .fault _ => none
  | .refused why => some why

/-- The vectors' start state with the given framebuffer: reset, then `CONSTRUCT 0, 2, 0, 1`. -/
def vgaWith (fb : Memory) : State :=
  let s := after (exec (.construct 0 2 0 1) State.reset) State.reset
  { s with self := { s.self with fb := fb } }

/-- The same after `START`, moved to a position `(v, h)`. -/
def vgaAt (fb : Memory) (v h : BitVec 10) : Driver :=
  { (after (exec .start (vgaWith fb)) (vgaWith fb)).self with hcount := h, vcount := v }

/-- One TICK of that instance. -/
def ticked (d : Driver) : Option Driver :=
  match tick (Config.vga640 2 1) 0 d with
  | .ok d => some d
  | .error _ => none

/-- The smallest parameters the rules allow with porches: 8 by 2 pixels, 11 periods by 5 lines. -/
def small : Config where
  hActive := 8
  hSync := 1
  hBack := 1
  hFront := 1
  hTotal := 11
  vActive := 2
  vSync := 1
  vBack := 1
  vFront := 1
  vTotal := 5
  pclkHz := 1
  syncActive := false
  colorActive := true
  colorInactive := false
  width := 8
  height := 2
  modeVga640 := 0
  tcChannels := 2
  seChannels := 1
  pinBits := 6
  poolTiming := 4
  poolOutput := 2
  oobPolicy := .fail
  lbLatency := 0
  fetchPolicy := .jit
  doubleBuffer := false

/-- Two instances after reset. -/
def fresh : State := State.resetOf small 1

/-- The instance in focus constructed with pins 3, 1, 2. -/
def built : State := after (exec (.construct 0 3 1 2) fresh) fresh

/-- The instance in focus running. -/
def running : State := after (exec .start built) built

/-- The other instance of a state in focus. -/
def swapped (s : State) : State :=
  match s.peers with
  | [] => s
  | d :: ds => { s with self := d, peers := s.self :: ds }

/-- The running instance (pins 3, 1, 2) as a peer, and a second one constructed with the given pins. -/
def secondWith (col hs vs : Pin) : State := after (exec (.construct 0 col hs vs) (swapped running)) (swapped running)

/-- A `FILL 1` in progress. -/
def filling : State := after (exec (.fill 1) built) built

/-! ## Decoding: words written out bit by bit from the formats of R92 (table T3) -/

theorem test_decode_construct : decode 0b00010000000000111101111110111111 = .ok (.construct 0 63 62 61) := by decide
theorem test_decode_destroy : decode 0b00100000000000000000000000000000 = .ok .destroy := by decide
theorem test_decode_start : decode 0b00110000000000000000000000000000 = .ok .start := by decide
theorem test_decode_stop : decode 0b01000000000000000000000000000000 = .ok .stop := by decide
theorem test_decode_setPixel : decode 0b01010001110111110000001001111111 = .ok (.setPixel 639 479) := by decide
theorem test_decode_clearPixel : decode 0b01100001110111110000001001111111 = .ok (.clearPixel 639 479) := by decide
theorem test_decode_getPixel : decode 0b01110001110111110000001001111111 = .ok (.getPixel 639 479) := by decide
theorem test_decode_fill : decode 0b10000000000000000000000000000001 = .ok (.fill 1) := by decide
theorem test_decode_writeRowByte : decode 0b10010000000000010100111110100101 = .ok (.writeRowByte 1 79 0xA5) := by decide

/-- T3: the reserved words, each by the name of its reason. -/
theorem test_decode_reserved :
    (decode 0x10041002 = .error (.mustBeZero 1) ∧ decode 0x10801002 = .error (.mustBeZero 1)) ∧
    (decode 0x20000001 = .error (.mustBeZero 2) ∧ decode 0x30000001 = .error (.mustBeZero 3) ∧
      decode 0x48000000 = .error (.mustBeZero 4)) ∧
    (decode 0x80000002 = .error (.mustBeZero 8) ∧ decode 0x80000003 = .error (.mustBeZero 8)) ∧
    (decode 0x0FFFFFFF = .error (.unassignedOp 0) ∧ decode 0xA0000000 = .error (.unassignedOp 0xA) ∧
      decode 0xFFFFFFFF = .error (.unassignedOp 0xF)) := by
  decide

/-- T3: the largest operands are valid encodings. -/
theorem test_decode_largest :
    decode 0x1F03FFFF = .ok (.construct 15 63 63 63) ∧ decode 0x5FFFFFFF = .ok (.setPixel 65535 4095) ∧
    decode 0x9FFFFFFF = .ok (.writeRowByte 4095 255 0xFF) := by
  decide

theorem test_decodeTableWord : decodeTableWord 32 0x10001002 = some (.construct 0 2 0 1) := by decide

/-- R99: the text form of the worked encodings. -/
theorem test_text :
    Instr.text (.construct 0 2 0 1) = "CONSTRUCT 0, 2, 0, 1" ∧ Instr.text .stop = "STOP" ∧
    Instr.text (.writeRowByte 1 79 0xA5) = "WRITE_ROW_BYTE 1, 79, 165" := by
  decide

/-! ## Well-formedness: one ill-formed term for each check -/

theorem test_wf_vga : (Config.vga640 2 1).wf = true ∧ small.wf = true := by decide
theorem test_illformed_hSum : Config.hSumOk { small with hFront := 2 } = false := by decide
theorem test_illformed_vSum : Config.vSumOk { small with vFront := 2 } = false := by decide
theorem test_illformed_counts : Config.countsOk { small with vSync := 0 } = false := by decide
theorem test_illformed_size : Config.sizeOk { small with height := 3 } = false := by decide
theorem test_illformed_width : Config.widthOk { small with width := 12 } = false := by decide
theorem test_illformed_registers : Config.registersOk { small with hTotal := 1025 } = false := by decide
theorem test_illformed_latency : Config.latencyOk { small with lbLatency := 3 } = false := by decide
theorem test_illformed_levels : Config.levelsOk { small with colorInactive := true } = false := by decide
theorem test_illformed_pinBits : Config.pinBitsOk { small with pinBits := 7 } = false := by decide
theorem test_illformed_buffers : Config.singleBuffered { small with doubleBuffer := true } = false := by decide
theorem test_illformed_row : (Pseudo.writeRow 0 [0x01, 0x02]).wf small = false := by decide

/-- R66: parameters that break R8 are refused. -/
theorem test_illformed_refused :
    refusal (exec (.construct 0 3 1 2) (State.resetOf { small with width := 12 } 0)) = some .parameters := by decide

/-! ## The commands (T2, T6, T7) -/

/-- T6 row 6. -/
theorem test_construct : answers (exec (.construct 0 2 0 1) State.reset) .ok false [] = true := by decide
/-- T6 rows 5 and 7. -/
theorem test_construct_rejected :
    answers (exec (.construct 3 2 0 1) State.reset) .modeUnsupported false [] = true ∧
    refusal (exec (.construct 0 2 0 1) (vgaWith [])) = some .alreadyConstructed := by decide

/-- T6 row 9. -/
theorem test_start :
    (after (exec .start (vgaWith [])) State.reset).self.pins = (.low, .low, .low) ∧
    (after (exec .start (vgaWith [])) State.reset).pool = ⟨[0, 1, 2], 0, 0⟩ := by decide

/-- T6, the row of `CONSTRUCT 0, 0, 0, 1`: `SE.arm` fails and `START` leaves no trace but its response. -/
theorem test_start_rolls_back :
    exec .start { vgaWith [] with self := { (vgaWith []).self with cfgColPin := 0 } } =
      .next (State.respond { vgaWith [] with self := { (vgaWith []).self with cfgColPin := 0 } } .pinConflict false) := by
  rfl

/-- T6 row 13. -/
theorem test_stop :
    (after (exec .stop (after (exec .start (vgaWith [])) State.reset)) State.reset).self.pins = (.z, .z, .z) ∧
    (after (exec .stop (after (exec .start (vgaWith [])) State.reset)) State.reset).pool = ⟨[], 2, 1⟩ := by decide

/-- T6 row 8. -/
theorem test_stop_idle : answers (exec .stop (vgaWith [])) .notRunning false [] = true := by decide

/-- T6 row 15; nothing of the configuration survives (R258). -/
theorem test_destroy :
    (after (exec .destroy (vgaWith [])) (vgaWith [])).self.constructed = false ∧
    (after (exec .destroy (vgaWith [])) (vgaWith [])).self.cfgColPin = 0 ∧
    (after (exec .destroy (vgaWith [])) (vgaWith [])).self.rsp = some ⟨.ok, false⟩ := by
  exact ⟨rfl, rfl, rfl⟩

/-- T6 rows 3 and 11. -/
theorem test_destroy_refused :
    refusal (exec .destroy State.reset) = some .unconstructed ∧
    refusal (exec .destroy (after (exec .start (vgaWith [])) State.reset)) = some .destroyWhileRunning := by decide

/-- T2: `SET_PIXEL 7, 0` beside a set pixel, and a column that must not reach into the next row. -/
theorem test_setPixel :
    answers (exec (.setPixel 7 0) (vgaWith [(0, 0x01)])) .ok false [(0, 0x81)] = true ∧
    answers (exec (.setPixel 640 0) (vgaWith [])) .outOfBounds false [] = true := by decide

/-- T2: `CLEAR_PIXEL 10, 3`. -/
theorem test_clearPixel :
    answers (exec (.clearPixel 10 3) (vgaWith [(241, 0xFF)])) .ok false [(241, 0xFB)] = true := by decide

/-- T2: `GET_PIXEL 639, 479`, its neighbour, and an out-of-range column. -/
theorem test_getPixel :
    answers (exec (.getPixel 639 479) (vgaWith [(38399, 0x80)])) .ok true [(38399, 0x80)] = true ∧
    answers (exec (.getPixel 638 479) (vgaWith [(38399, 0x80)])) .ok false [(38399, 0x80)] = true ∧
    answers (exec (.getPixel 640 0) (vgaWith [(38399, 0x80)])) .outOfBounds false [(38399, 0x80)] = true := by decide

/-- R125, R47: a `FILL 1` writes byte 0 first and goes on at address 1, with no response yet. -/
theorem test_fill :
    (after (exec (.fill 1) (vgaWith [])) State.reset).self.fb = [(0, 0xFF)] ∧
    (after (exec (.fill 1) (vgaWith [])) State.reset).self.fillNext = some ⟨true, 1⟩ ∧
    (after (exec (.fill 1) (vgaWith [])) State.reset).self.rsp = none := by decide

/-- R125: the last byte write of a `FILL 0` ends the pass with `OK`. -/
theorem test_fill_last :
    answers (continueFill { vgaWith [(38399, 0x80)] with
      self := { (vgaWith [(38399, 0x80)]).self with fillNext := some ⟨false, 38399⟩ } }) .ok false [] = true := by decide

/-- T2: `WRITE_ROW_BYTE 1, 79, 0xA5`, and an index that must not reach into the next row. -/
theorem test_writeRowByte :
    answers (exec (.writeRowByte 1 79 0xA5) (vgaWith [])) .ok false [(159, 0xA5)] = true ∧
    answers (exec (.writeRowByte 0 80 0xFF) (vgaWith [])) .outOfBounds false [] = true := by decide

/-- T2: the same out-of-range writes under `OOB_POLICY = clip`. -/
theorem test_clip :
    answers (exec (.setPixel 8 0) { built with cfg := { small with oobPolicy := .clip } }) .ok false [] = true ∧
    answers (exec (.writeRowByte 2 0 1) { built with cfg := { small with oobPolicy := .clip } }) .ok false [] = true ∧
    answers (exec (.getPixel 8 0) { built with cfg := { small with oobPolicy := .clip } }) .outOfBounds false [] = true :=
  by decide

/-- R47: the host can issue no command inside its own `FILL` pass. -/
theorem test_command_inside_fill : refusal (exec (.setPixel 0 0) filling) = some .fillInProgress := by decide

/-- T6 rows 6 and 1: a presented word is the next step's command. -/
theorem test_withFetchWord :
    answers (step (State.reset.withFetchWord 32 0x10001002)) .ok false [] = true ∧
    refusal (step (State.reset.withFetchWord 32 0x30000000)) = some .unconstructed ∧
    refusal (step (State.reset.withFetchWord 32 0x00000000)) = some (.reservedWord (.unassignedOp 0)) := by decide

/-- T6 rows 1, 5, 6, 7 and 8: a run goes on after its refused commands, and shows the responses of the others (R293). -/
theorem test_run_goes_on :
    observations 5 { State.resetOf (Config.vga640 2 1) 0 with
      input := [0x30000000, 0x13001002, 0x10001002, 0x10001002, 0x40000000].map fun w => .act 0 (.command w) } =
      [.response 0 ⟨.modeUnsupported, false⟩, .response 0 ⟨.ok, false⟩, .response 0 ⟨.notRunning, false⟩] := by decide

/-- R293, R125: a run shows the pins after each TICK, and the response of a `FILL` after its last byte write. -/
theorem test_observations :
    observations 5 { built with input :=
      [.act 0 (.command 0x30000000), .act 0 .tick, .act 0 (.command 0x80000001), .act 0 .fillWrite, .act 1 .tick] } =
      [.response 0 ⟨.ok, false⟩, .pins 0 (.high, .low, .low), .response 0 ⟨.ok, false⟩, .pins 1 (.z, .z, .z)] := by decide

/-- T7: device reset of a running device, in the middle of a `FILL` pass. -/
theorem test_reset :
    (deviceReset { running with self := { running.self with fillNext := some ⟨true, 1⟩ } }).self.pins = (.z, .z, .z) ∧
    (deviceReset { running with self := { running.self with fillNext := some ⟨true, 1⟩ } }).self.fillNext = none ∧
    (deviceReset running).self.constructed = false ∧ (deviceReset running).pool = ⟨[], 4, 2⟩ := by decide

/-- R231: the status codes. -/
theorem test_status_codes :
    [Status.ok, .modeUnsupported, .pinConflict, .resourceExhausted, .alreadyRunning, .notRunning, .outOfBounds].map
      Status.code = [0, 1, 2, 3, 4, 5, 6] := by decide

/-! ## TICK (T4, T5) -/

/-- T4 rows 95 and 96: the horizontal pulse ends. -/
theorem test_tick_hsync :
    (ticked (vgaAt [] 0 94)).map Driver.pins = some (.low, .low, .low) ∧
    (ticked (vgaAt [] 0 95)).map Driver.pins = some (.high, .low, .low) := by decide

/-- T4 rows 1600 and 420000: the vertical pulse ends on a falling edge of hsync; both counters wrap in one TICK. -/
theorem test_tick_wraps :
    (ticked (vgaAt [] 1 799)).map (fun d => (d.vcount, d.hcount, d.pins)) = some (2, 0, .low, .high, .low) ∧
    (ticked (vgaAt [] 524 799)).map (fun d => (d.vcount, d.hcount, d.pins)) = some (0, 0, .low, .low, .low) := by decide

/-- T4 rows 28000 and 412000: the line-boundary signal of an active-video line begins a row, that of another does not. -/
theorem test_tick_row_begins :
    (ticked (vgaAt [] 34 799)).map (fun d => (d.scanBusy, d.scanLine)) = some (true, 0) ∧
    (ticked (vgaAt [] 514 799)).map (fun d => d.scanBusy) = some false := by decide

/-- T5 rows 28144 and 28145: byte 0 = 0x05 is fetched and its bits go out least significant first. -/
theorem test_tick_pixels :
    (ticked { vgaAt [(0, 0x05)] 35 143 with scanBusy := true }).map (fun d => (d.shreg, d.pinColor)) =
      some (0x05, .high) ∧
    (ticked { vgaAt [(0, 0x05)] 35 144 with scanBusy := true, shreg := 0x05 }).map (fun d => (d.shreg, d.pinColor)) =
      some (0x05, .low) := by decide

/-- T5 row 411983 and T4 row 28784: the last pixel, and the end of a row. -/
theorem test_tick_row_ends :
    (ticked { vgaAt [] 514 782 with scanBusy := true, shreg := 0x80, scanLine := 479 }).map (fun d => d.pinColor) =
      some .high ∧
    (ticked { vgaAt [] 35 783 with scanBusy := true, shreg := 0xFF }).map (fun d => (d.scanBusy, d.pinColor)) =
      some (false, .low) := by decide

/-- R158: a TICK while nothing is armed. -/
theorem test_tick_disarmed : ticked (vgaWith []).self = some (vgaWith []).self := by decide

/-- R185: under `ROW_LATCH` the line-boundary TICK latches the whole row. -/
theorem test_tick_rowLatch :
    (match tick { small with fetchPolicy := .rowLatch } 0
        { running.self with hcount := 10, vcount := 1, fb := [(0, 0x0F)] } with
      | .ok d => some d.rowbuf
      | .error _ => none) = some [(0, 0x0F)] := by decide

/-! ## The invariants hold of the states below -/

/-- The invariants of a driver with concrete fields, field by field. -/
theorem inv_of {c : Config} {d : Driver}
    (h1 : d.fb.wf = true ∧ d.fb.below c.nbytes = true := by decide)
    (h2 : d.rowbuf.wf = true ∧ d.rowbuf.below c.rowBytes = true ∧ d.fetched = [] := by decide)
    (h3 : d.constructed = false → { d with fb := [], rsp := none } = Driver.reset := by decide)
    (h4 : d.constructed = true → c.wf = true ∧ d.cfgMode = c.modeVga640 := by decide)
    (h5 : d.lcState = .running ↔ d.tcArmed = true ∧ d.seArmed = true := by decide)
    (h6 : d.lcState = .idle → d.tcArmed = false ∧ d.seArmed = false := by decide)
    (h7 : d.tcArmed = false → d.hcount = 0 ∧ d.vcount = 0 ∧ d.pinHsync = .z ∧ d.pinVsync = .z := by decide)
    (h8 : d.tcArmed = true → d.hcount.toNat < c.hTotal ∧ d.vcount.toNat < c.vTotal ∧
      d.pinHsync = hsLevel c d.hcount.toNat ∧ d.pinVsync = vsLevel c d.vcount.toNat := by decide)
    (h9 : d.seArmed = false → d.pinColor = .z ∧ d.scanBusy = false := by decide)
    (h10 : d.scanBusy = true → d.seArmed = true ∧ d.tcArmed = true ∧ d.scanLine.toNat < c.height ∧
      (c.lbLatency ≤ d.hcount.toNat → c.v0 ≤ d.vcount.toNat ∧ d.vcount.toNat < c.v0 + c.vActive ∧
        d.scanLine.toNat = d.vcount.toNat - c.v0 ∧ d.hcount.toNat < c.h0 + c.width) := by decide)
    (h11 : d.seArmed = true → d.pinColor = scanLevel c d := by decide)
    (h12 : d.fillNext.all (fun p => decide (p.next < c.nbytes)) = true := by decide) : d.Inv c :=
  ⟨h1, ⟨h2.1, h2.2.1, by rw [h2.2.2]; exact List.Pairwise.nil, by simp [h2.2.2]⟩, h3, h4, h5, h6, h7, h8, h9, h10, h11,
    fun p hp => by simpa [hp] using h12⟩

/-- The pool's conservation law, from the pins listed. -/
theorem poolInv_of {s : State} (h1 : s.pool.pins.Pairwise (· < ·) := by decide) (h2 : s.claimedPins.Nodup := by decide)
    (h3 : ∀ p ∈ s.pool.pins, p ∈ s.claimedPins := by decide) (h4 : ∀ p ∈ s.claimedPins, p ∈ s.pool.pins := by decide)
    (h5 : s.pool.freeTiming + (s.drivers.map (Driver.claimedTiming s.cfg)).sum = s.cfg.poolTiming := by decide)
    (h6 : s.pool.freeOutput + (s.drivers.map (Driver.claimedOutput s.cfg)).sum = s.cfg.poolOutput := by decide) :
    s.PoolInv :=
  ⟨h1, h2, fun p => ⟨h3 p, h4 p⟩, h5, h6⟩

theorem inv_fresh : fresh.self.Inv small := inv_of
theorem inv_built : built.self.Inv small := inv_of
theorem inv_running : running.self.Inv small := inv_of
theorem inv_filling : filling.self.Inv small := inv_of

/-- A running instance at the last period of the line before row `r` of the small screen. -/
def beforeRow (r : Nat) (fb : Memory) : Driver :=
  { running.self with
    hcount := 10, vcount := BitVec.ofNat 10 (1 + r), pinHsync := .high, pinVsync := .high, fb := fb }

theorem inv_beforeRow :
    (beforeRow 0 [(0, 0x01)]).Inv small ∧ (beforeRow 1 [(1, 0x80)]).Inv small :=
  ⟨inv_of, inv_of⟩

/-- A running instance showing the last pixel of the last row, which is on. -/
def lastPixel : Driver :=
  { running.self with
    hcount := 9, vcount := 3, pinHsync := .high, pinVsync := .high, pinColor := .high, scanBusy := true, scanLine := 1,
    shreg := 0x80, fb := [(1, 0x80)] }

theorem inv_lastPixel : lastPixel.Inv small := inv_of

theorem drivers_of {s : State} {d e : Driver} (hs : s.drivers = [d, e]) (hd : d.Inv s.cfg) (he : e.Inv s.cfg) :
    s.DriversInv := by
  intro x hx
  rw [hs] at hx
  rcases List.mem_cons.1 hx with rfl | hx
  · exact hd
  · rw [List.mem_singleton.1 hx]; exact he

theorem driversInv_fresh : fresh.DriversInv := drivers_of rfl inv_fresh inv_fresh
theorem driversInv_built : built.DriversInv := drivers_of rfl inv_built inv_fresh
theorem driversInv_running : running.DriversInv := drivers_of rfl inv_running inv_fresh
theorem driversInv_filling : filling.DriversInv := drivers_of rfl inv_filling inv_fresh
theorem poolInv_built : built.PoolInv := poolInv_of
theorem poolInv_running : running.PoolInv := poolInv_of

/-! ## Witnesses: hypotheses that hold together

Each is named after its statement in Sys2Proof/Certificates/Slice0/Obligations.lean. -/

theorem witness_WordIsCommandIffRowMatches : rowFill ∈ opcodeMap ∧ rowFill.hits 0x80000001 = true := by decide

/-- At instance 0, and at the first and the last peer. -/
theorem witness_ReservedWordsRefused : decode 0x30000001 = .error (.mustBeZero 3) ∧
    (present 0x30000001 fresh).input = .act 0 (.command 0x30000001) :: [] ∧
    { fresh with input := [.act 1 (.command 0x30000001)] }.input = .act (0 + 1) (.command 0x30000001) :: [] ∧
    0 < fresh.peers.length ∧ fresh.peers.length = 1 := by decide

theorem witness_EncodeDecode : decode 0x9FFFFFFF = .ok (.writeRowByte 4095 255 0xFF) := by decide

/-- At instance 0, and at a peer with each of the three outcomes (a fault only where the parameters break R8). -/
theorem witness_StepRunsDecodedCommand :
    (present 0x30000000 fresh).input = [.act 0 (.command 0x30000000)] ∧ decode 0x30000000 = .ok .start ∧
    { fresh with input := [.act 1 (.command 0x10001002)] }.input = [.act (0 + 1) (.command 0x10001002)] ∧
    fresh.peers[0]? = some Driver.reset ∧ decode 0x10001002 = .ok (.construct 0 2 0 1) ∧
    (∃ t, exec (.construct 0 2 0 1) { fresh with input := [], self := Driver.reset } = .next t) ∧
    exec .start { fresh with input := [], self := Driver.reset } = .refused .unconstructed ∧
    exec (.fill 1) { fresh with cfg := { small with width := 0 }, input := [], self := built.self } =
      .fault (.frameBufferAddress 0) :=
  ⟨rfl, by decide, rfl, rfl, by decide, ⟨_, rfl⟩, rfl, rfl⟩

theorem witness_DeviceResetValues : { running with input := [.reset] }.input = .reset :: [] := rfl

/-- A clock edge, a command at a peer, and device reset. -/
theorem witness_StepKeepsDriverInvariants :
    running.DriversInv ∧ (∃ t, step running = .next t) ∧
    (∃ t, step { running with input := [.act 1 (.command 0x10001002)] } = .next t) ∧
    ∃ t, step { running with input := [.reset] } = .next t :=
  ⟨driversInv_running, ⟨_, rfl⟩, ⟨_, rfl⟩, ⟨_, rfl⟩⟩

theorem witness_StepNeverFaults : running.DriversInv ∧ filling.DriversInv := ⟨driversInv_running, driversInv_filling⟩

theorem witness_StepKeepsPoolConservation :
    (built.DriversInv ∧ built.PoolInv ∧ ∃ t, step (present 0x30000000 built) = .next t) ∧
    (running.DriversInv ∧ running.PoolInv ∧ ∃ t, step (present 0x40000000 running) = .next t) :=
  ⟨⟨driversInv_built, poolInv_built, _, rfl⟩, ⟨driversInv_running, poolInv_running, _, rfl⟩⟩

theorem witness_ConfigurationNeverChanges : ∃ t, step (present 0x30000000 built) = .next t := ⟨_, rfl⟩

theorem witness_ConstructCompletes : fresh.self.fillNext = none ∧ fresh.self.constructed = false ∧ fresh.cfg.wf = true ∧
    (0 : BitVec 4) = fresh.cfg.modeVga640 ∧ fresh.self.Inv fresh.cfg :=
  ⟨rfl, rfl, by decide, rfl, inv_fresh⟩

/-- The smallest unsupported mode, and a state in which the error has been recorded. -/
theorem witness_UnsupportedModeRejected :
    fresh.self.fillNext = none ∧ fresh.self.constructed = false ∧ fresh.cfg.wf = true ∧
    (1 : BitVec 4) ≠ fresh.cfg.modeVga640 ∧
    ∃ t, exec (.construct 15 3 1 2) fresh = .next t ∧ t.self.rsp = some ⟨.modeUnsupported, false⟩ :=
  ⟨rfl, rfl, by decide, by decide, _, rfl, rfl⟩

/-- The five clauses. -/
theorem witness_CommandsWithoutMeaningRefused :
    ((∀ mode col hs vs, Instr.fill 1 ≠ .construct mode col hs vs) ∧ fresh.self.fillNext = none ∧
      fresh.self.constructed = false) ∧
    (built.self.fillNext = none ∧ built.self.constructed = true) ∧
    (running.self.fillNext = none ∧ running.self.constructed = true ∧ running.self.lcState = .running) ∧
    filling.self.fillNext = some ⟨true, 1⟩ ∧
    ((present 0x30000000 fresh).input = [.act 0 (.command 0x30000000)] ∧ decode 0x30000000 = .ok .start ∧
      exec .start fresh = .refused .unconstructed) :=
  ⟨⟨fun _ _ _ _ h => (by cases h), rfl, rfl⟩, ⟨rfl, rfl⟩, ⟨rfl, rfl, rfl⟩, rfl, rfl, by decide, rfl⟩

theorem witness_DestroyCompletes : built.self.fillNext = none ∧ built.self.constructed = true ∧
    built.self.lcState = .idle := by decide

/-- With the last free channels: two timing channels and one output channel. -/
theorem witness_StartCompletes : ∃ s : State, s.cfg.wf = true ∧ s.self.fillNext = none ∧ s.self.constructed = true ∧
    s.self.lcState = .idle ∧ s.cfg.tcChannels = s.pool.freeTiming ∧ s.cfg.seChannels = s.pool.freeOutput ∧
    s.self.cfgHsPin ∉ s.pool.pins ∧ s.self.cfgVsPin ∉ s.pool.pins ∧ s.self.cfgColPin ∉ s.pool.pins ∧
    s.self.cfgVsPin ≠ s.self.cfgHsPin ∧ s.self.cfgColPin ≠ s.self.cfgHsPin ∧ s.self.cfgColPin ≠ s.self.cfgVsPin :=
  ⟨{ built with pool := ⟨[0, 4, 63], 2, 1⟩ }, by decide⟩

/-- One state for each branch of the report. -/
theorem witness_StartReportsFirstError :
    (running.cfg.wf = true ∧ running.self.fillNext = none ∧ running.self.constructed = true ∧
      running.self.lcState = .running) ∧
    (built.cfg.wf = true ∧ built.self.fillNext = none ∧ built.self.constructed = true ∧ built.self.lcState = .idle) ∧
    answers (exec .start { built with pool := ⟨[1], 1, 0⟩ }) .resourceExhausted false [] = true ∧
    answers (exec .start { built with pool := ⟨[1], 2, 1⟩ }) .pinConflict false [] = true ∧
    answers (exec .start { built with pool := ⟨[2], 2, 1⟩ }) .pinConflict false [] = true ∧
    answers (exec .start { built with pool := ⟨[3], 2, 0⟩ }) .pinConflict false [] = true ∧
    answers (exec .start { built with pool := ⟨[], 2, 0⟩ }) .resourceExhausted false [] = true ∧
    answers (exec .start { built with pool := ⟨[], 2, 1⟩ }) .ok false [] = true := by
  decide

theorem witness_ErrorsLeaveNoTrace : built.self.Inv built.cfg ∧ ∃ t, exec .stop built = .next t ∧
    t.self.rsp = some ⟨.notRunning, false⟩ ∧ Status.notRunning ≠ .ok :=
  ⟨inv_built, _, rfl, rfl, by decide⟩

theorem witness_LifecycleMisuseReported :
    (running.self.fillNext = none ∧ running.self.constructed = true ∧ running.self.lcState = .running) ∧
    (built.self.fillNext = none ∧ built.self.constructed = true ∧ built.self.lcState = .idle) := by decide

theorem witness_StopCompletes : running.self.Inv running.cfg ∧ running.pool.pins.Pairwise (· < ·) ∧
    running.self.fillNext = none ∧ running.self.constructed = true ∧ running.self.lcState = .running :=
  ⟨inv_running, by decide⟩

/-- Also in the middle of a row. -/
theorem witness_StopAnywhereReleasesPins :
    running.self.Inv running.cfg ∧ running.self.fillNext = none ∧ running.self.lcState = .running ∧
    lastPixel.Inv running.cfg ∧ lastPixel.fillNext = none ∧ lastPixel.lcState = .running :=
  ⟨inv_running, rfl, rfl, inv_lastPixel, rfl, rfl⟩

/-- Its own `STOP` and device reset, at the instance in focus and at a peer. -/
theorem witness_OnlyStopOrResetEndsSession :
    (running.DriversInv ∧ running.self.lcState = .running ∧
      ∃ t, step (present 0x40000000 running) = .next t ∧ t.self.lcState ≠ .running) ∧
    (∃ t, step { running with input := [.reset] } = .next t ∧ t.self.lcState ≠ .running) ∧
    ((swapped running).DriversInv ∧ (swapped running).peers[0]? = some running.self ∧
      ∃ t e, step { swapped running with input := [.act 1 (.command 0x40000000)] } = .next t ∧ t.peers[0]? = some e ∧
        e.lcState ≠ .running) ∧
    (running.self.Inv running.cfg ∧ running.self.fillNext = none ∧ running.self.lcState = .running) :=
  ⟨⟨driversInv_running, rfl, _, rfl, by decide⟩, ⟨_, rfl, by decide⟩,
    ⟨drivers_of rfl inv_fresh inv_running, rfl, _, _, rfl, rfl, by decide⟩, inv_running, rfl, rfl⟩

/-- A session in which this instance draws and is refused a `DESTROY`, and the other one is constructed. -/
def session : List Event :=
  [.act 0 .tick, .act 0 (.command 0x50000000), .act 1 (.command 0x10001002), .act 0 (.command 0x20000000)]

theorem session_without_stop :
    ∀ e ∈ session, e ≠ .reset ∧ ∀ w, e = .act 0 (.command w) → decode w ≠ .ok .stop := by
  intro e he
  simp only [session, List.mem_cons, List.not_mem_nil, or_false] at he
  rcases he with rfl | rfl | rfl | rfl <;> exact ⟨by decide, fun w h => by cases h <;> decide⟩

theorem witness_RestartAfterCleanStop : built.DriversInv ∧ built.PoolInv ∧ exec .start built = .next running ∧
    running.self.rsp = some ⟨.ok, false⟩ ∧ ∃ u, runInput { running with input := session } = .ok u ∧
      u.self.fillNext = none ∧ u.self.fb = [(0, 0x01)] ∧ u.pool = running.pool :=
  ⟨driversInv_built, poolInv_built, rfl, rfl, _, rfl, rfl, rfl, rfl⟩

theorem witness_LifecycleCommandsFrame : (∃ t, exec .start built = .next t) ∧ (∃ t, exec .stop running = .next t) ∧
    (∃ t, exec .destroy built = .next t) ∧ built.self.Inv built.cfg :=
  ⟨⟨_, rfl⟩, ⟨_, rfl⟩, ⟨_, rfl⟩, inv_built⟩

/-- The last pixel. -/
theorem witness_SetPixelCompletes : built.self.fillNext = none ∧ built.self.constructed = true ∧
    built.self.fb.wf = true ∧ (7 : BitVec 16).toNat < built.cfg.width ∧ (1 : BitVec 12).toNat < built.cfg.height := by
  decide

theorem witness_ClearPixelCompletes : running.self.fillNext = none ∧ running.self.constructed = true ∧
    running.self.fb.wf = true ∧ (7 : BitVec 16).toNat < running.cfg.width ∧
    (1 : BitVec 12).toNat < running.cfg.height := by decide

theorem witness_GetPixelCompletes : running.self.fillNext = none ∧ running.self.constructed = true ∧
    (0 : BitVec 16).toNat < running.cfg.width ∧ (0 : BitVec 12).toNat < running.cfg.height := by decide

theorem witness_WriteRowByteCompletes : built.self.fillNext = none ∧ built.self.constructed = true ∧
    built.self.fb.wf = true ∧ built.cfg.width % 8 = 0 ∧ (1 : BitVec 12).toNat < built.cfg.height ∧
    (0 : BitVec 8).toNat < built.cfg.width / 8 := by decide

/-- A buffer of more than one byte, and one of a single byte. -/
theorem witness_FillBegins :
    (built.self.fillNext = none ∧ built.self.constructed = true ∧ built.self.fb.wf = true ∧ 1 < built.cfg.nbytes) ∧
    Config.nbytes { small with height := 1, vActive := 1, vTotal := 4 } = 1 ∧
    Config.wf { small with height := 1, vActive := 1, vTotal := 4 } = true := by decide

/-- A running instance with a buffer of three bytes. -/
def tall : State :=
  { running with cfg := { small with height := 3, vActive := 3, vTotal := 6 } }

/-- Before the last byte write: a TICK, the second byte write, a refused `STOP`, and a command and a byte write at the
peer. Then the last byte write, a TICK, and a refused command at the peer. -/
def interleaved : List Event × List Event :=
  ([.act 0 .tick, .act 0 .fillWrite, .act 0 (.command 0x40000000), .act 1 (.command 0x10001002), .act 1 .fillWrite],
    [.act 0 .fillWrite, .act 1 .tick, .act 1 (.command 0x20000001)])

/-- A pass of three byte writes with a prelude of other events, and one of two byte writes with none. -/
theorem witness_FillCompletesUnderAnyInterleaving :
    (tall.DriversInv ∧ (∃ t, exec (.fill 1) tall = .next t) ∧ tall.cfg.nbytes = 3 ∧
      .reset ∉ interleaved.1 ∧ interleaved.1.count (.act 0 .fillWrite) + 1 < tall.cfg.nbytes ∧
      .reset ∉ interleaved.2 ∧ (∀ w, .act 0 (.command w) ∉ interleaved.2) ∧
      (interleaved.1 ++ interleaved.2).count (.act 0 .fillWrite) + 1 = tall.cfg.nbytes) ∧
    (built.DriversInv ∧ exec (.fill 1) built = .next filling ∧ .reset ∉ [Event.act 0 .tick, .act 0 .fillWrite] ∧
      [Event.act 0 .tick, .act 0 .fillWrite].count (.act 0 .fillWrite) + 1 = built.cfg.nbytes) :=
  ⟨⟨drivers_of rfl inv_of inv_of, ⟨_, rfl⟩, by decide, by decide, by decide, by decide,
    fun w h => by simp [interleaved] at h, by decide⟩, driversInv_built, rfl, by decide, by decide⟩

theorem witness_FillOffRestoresConstructedBuffer : built.DriversInv ∧ (∃ t, exec (.fill 0) built = .next t ∧
      ∃ u, runInput { t with input := List.replicate (built.cfg.nbytes - 1) (.act 0 .fillWrite) } = .ok u) ∧
    exec (.construct 0 3 1 2) fresh = .next built ∧ built.self.rsp = some ⟨.ok, false⟩ :=
  ⟨driversInv_built, ⟨_, rfl, _, rfl⟩, rfl, rfl⟩

theorem witness_SetThenGetReturnsOn : built.self.Inv built.cfg ∧ pixelInRange built.cfg 7 1 = true ∧
    (∃ t, exec (.setPixel 7 1) built = .next t) ∧ pixelInRange built.cfg 6 1 = true ∧
    ((6 : BitVec 16), (1 : BitVec 12)) ≠ (7, 1) ∧ exec (.getPixel 6 1) built = .next (built.respond .ok false) :=
  ⟨inv_built, by decide, ⟨_, rfl⟩, by decide, by decide, rfl⟩

theorem witness_ExtremePixelsSetOnlyTheirBits : built.cfg.wf = true ∧ 8 < built.cfg.width * built.cfg.height ∧
    built.self.fb = [] ∧ (7 : BitVec 16).toNat + 1 = built.cfg.width ∧ (1 : BitVec 12).toNat + 1 = built.cfg.height ∧
    ∃ t u, exec (.setPixel 0 0) built = .next t ∧ exec (.setPixel 7 1) t = .next u :=
  ⟨by decide, by decide, rfl, by decide, by decide, _, _, rfl, rfl⟩

/-- The first column, row and byte index out of range, under both policies. -/
theorem witness_OutOfRangeTouchesNothing :
    built.self.fillNext = none ∧ built.self.constructed = true ∧ pixelInRange built.cfg 8 0 = false ∧
    pixelInRange built.cfg 0 2 = false ∧ rowByteInRange built.cfg 0 1 = false ∧ rowByteInRange built.cfg 2 0 = false ∧
    built.cfg.oobPolicy = .fail ∧ pixelInRange { small with oobPolicy := .clip } 8 0 = false ∧
    rowByteInRange { small with oobPolicy := .clip } 0 1 = false := by decide

theorem witness_FrameBufferCommandsFrame :
    (∃ t, exec (.setPixel 7 1) built = .next t) ∧ (∃ t, exec (.clearPixel 7 1) built = .next t) ∧
    (∃ t, exec (.getPixel 7 1) built = .next t) ∧ (∃ t, exec (.fill 1) built = .next t) ∧
    (∃ t, exec (.writeRowByte 1 0 0xA5) built = .next t) ∧
    filling.self.fillNext = some ⟨true, 1⟩ ∧ ∃ t, act .fillWrite filling = .next t :=
  ⟨⟨_, rfl⟩, ⟨_, rfl⟩, ⟨_, rfl⟩, ⟨_, rfl⟩, ⟨_, rfl⟩, rfl, _, rfl⟩

/-- In range with another byte, and out of range, for each store; and the last byte write of a `FILL` pass. -/
theorem witness_FrameBufferStoresOneByte : built.self.fb.wf = true ∧
    ((∃ t, exec (.setPixel 7 1) built = .next t) ∧ pixelInRange built.cfg 7 1 = true ∧ 0 ≠ pixelByte built.cfg 1 7) ∧
    ((∃ t, exec (.clearPixel 8 0) built = .next t) ∧ pixelInRange built.cfg 8 0 = false) ∧
    ((∃ t, exec (.writeRowByte 0 0 1) built = .next t) ∧ rowByteInRange built.cfg 0 0 = true ∧
      1 ≠ rowByteAddress built.cfg 0 0) ∧
    ((∃ t, exec (.writeRowByte 0 1 1) built = .next t) ∧ rowByteInRange built.cfg 0 1 = false) ∧
    ((∃ t, exec (.fill 1) built = .next t) ∧ 1 ≠ 0) ∧
    filling.self.fb.wf = true ∧ filling.self.fillNext = some ⟨true, 1⟩ ∧ (∃ t, act .fillWrite filling = .next t) ∧
    0 ≠ (FillPass.mk true 1).next :=
  ⟨rfl, ⟨⟨_, rfl⟩, by decide, by decide⟩, ⟨⟨_, rfl⟩, by decide⟩, ⟨⟨_, rfl⟩, by decide, by decide⟩,
    ⟨⟨_, rfl⟩, by decide⟩, ⟨⟨_, rfl⟩, by decide⟩, rfl, rfl, ⟨_, rfl⟩, by decide⟩

theorem witness_PixelAccessors : Memory.wf [(0, 0x01), (1, 0x80)] = true ∧ 1 < small.height ∧ 7 < small.width := by
  decide

theorem witness_TickWhileDisarmedChangesNothing : built.self.tcArmed = false := by decide

/-- At the start of a frame, and where `hcount` wraps. -/
theorem witness_TickAdvancesPosition : (running.self.Inv small ∧ (beforeRow 0 [(0, 0x01)]).Inv small) ∧
    small.hTotal ≤ 1024 ∧ small.vTotal ≤ 1024 ∧ running.self.tcArmed = true ∧
    (beforeRow 0 [(0, 0x01)]).tcArmed = true ∧ (∃ d, tick small 0 running.self = .ok d) ∧
    ∃ d, tick small 0 (beforeRow 0 [(0, 0x01)]) = .ok d :=
  ⟨⟨inv_running, inv_beforeRow.1⟩, by decide, by decide, rfl, rfl, ⟨_, rfl⟩, ⟨_, rfl⟩⟩

theorem witness_HsyncFollowsHcount : running.self.tcArmed = true ∧ (∃ d, tick small 0 running.self = .ok d) ∧
    ∃ P d, tcArm small built.pool built.self = .ok (P, d) :=
  ⟨rfl, ⟨_, rfl⟩, _, _, rfl⟩

theorem witness_VsyncChangesOnlyAtLineStart : (∃ P d, tcArm small built.pool built.self = .ok (P, d)) ∧
    running.self.Inv small ∧ running.self.tcArmed = true ∧ ∃ d, tick small 0 running.self = .ok d ∧ d.hcount ≠ 0 :=
  ⟨⟨_, _, rfl⟩, inv_running, rfl, _, rfl, by decide⟩

theorem witness_TickAlwaysEnabled : filling.DriversInv ∧ 1 ≤ filling.peers.length ∧
    { filling with input := [.act 1 .tick] }.DriversInv ∧ { filling with input := [.act 0 .tick] }.DriversInv :=
  ⟨driversInv_filling, by decide, driversInv_filling, driversInv_filling⟩

/-- A write, a TICK, a peer's command and a refused command in between. -/
theorem witness_PositionClosedForm : ∃ s t : State, s.DriversInv ∧ s.self.tcArmed = true ∧
    (∀ e ∈ s.input, e ≠ .reset ∧ ∀ w, e = .act 0 (.command w) → decode w ≠ .ok .stop) ∧ runInput s = .ok t :=
  ⟨{ running with input := session }, _, driversInv_running, rfl, session_without_stop, rfl⟩

theorem witness_IntervalsAddUp : small.wf = true := by decide

/-- The lines at which the clauses meet; no line falls under two of them. -/
theorem witness_FrameLayout : (2 ≤ 34 ∧ 35 ≤ 514 ∧ 515 ≤ 524) ∧
    [0, 1, 2, 34, 35, 514, 515, 524].map (phase (Config.vga640 2 1)) =
      [.verticalSync, .verticalSync, .blanking, .blanking, .activeVideo, .activeVideo, .blanking, .blanking] := by decide

theorem witness_SyncIndependentOfScanout : ∃ d e d' e' : Driver, e.tcArmed = d.tcArmed ∧ e.hcount = d.hcount ∧
    e.vcount = d.vcount ∧ e.pinHsync = d.pinHsync ∧ e.pinVsync = d.pinVsync ∧ e.fb ≠ d.fb ∧
    tick small 0 d = .ok d' ∧ tick small 5 e = .ok e' :=
  ⟨beforeRow 0 [(0, 0x01)], { beforeRow 0 [(0, 0x02)] with shreg := 0xFF }, _, _, rfl, rfl, rfl, rfl, rfl, by decide,
    rfl, rfl⟩

theorem witness_TickFrame : ∃ d, tick small 0 (beforeRow 0 [(0, 0x01)]) = .ok d := ⟨_, rfl⟩

/-- The signal of an active-video line, that of a line after it, and a TICK between signals. -/
theorem witness_RowBeginsAtLineBoundary :
    small.wf = true ∧ running.self.tcArmed = true ∧ running.self.seArmed = true ∧
    (∃ d, tick small 0 (beforeRow 0 [(0, 0x01)]) = .ok d ∧ d.hcount.toNat = small.lbLatency ∧
      phase small d.vcount.toNat = .activeVideo) ∧
    (∃ d, tick small 0 (beforeRow 2 [(0, 0x01)]) = .ok d ∧ d.hcount.toNat = small.lbLatency ∧
      phase small d.vcount.toNat ≠ .activeVideo) ∧
    ∃ d, tick small 0 lastPixel = .ok d ∧ d.hcount.toNat ≠ small.lbLatency :=
  ⟨by decide, rfl, rfl, ⟨_, rfl, rfl, rfl⟩, ⟨_, rfl, rfl, by decide⟩, ⟨_, rfl, by decide⟩⟩

theorem witness_RowEndsAfterWidthPeriods : small.wf = true ∧ lastPixel.tcArmed = true ∧ lastPixel.seArmed = true ∧
    lastPixel.scanBusy = true ∧ ∃ d, tick small 0 lastPixel = .ok d ∧ d.hcount.toNat = small.h0 + small.width :=
  ⟨by decide, rfl, rfl, rfl, _, rfl, by decide⟩

/-- The TICK that shows the first pixel of a byte, and one that does not. -/
theorem witness_JitFetchesAtFirstPixel : small.wf = true ∧ small.fetchPolicy = .jit ∧ lastPixel.tcArmed = true ∧
    lastPixel.seArmed = true ∧ (∃ d, tick small 0 { lastPixel with hcount := 1 } = .ok d ∧ d.scanBusy = true ∧
      d.hcount.toNat = small.h0) ∧ ∃ d, tick small 0 lastPixel = .ok d ∧ d.scanBusy = false :=
  ⟨by decide, rfl, rfl, rfl, ⟨_, rfl, rfl, rfl⟩, _, rfl, rfl⟩

/-- Inside the pixel periods and after them, and inside them with a latched row. -/
theorem witness_ColourIsLatchedPixel : small.wf = true ∧ lastPixel.tcArmed = true ∧ lastPixel.seArmed = true ∧
    (∃ d, tick small 0 { lastPixel with hcount := 8 } = .ok d ∧ d.scanBusy = true ∧
      d.hcount.toNat + 1 = small.h0 + small.width) ∧
    (∃ d, tick small 0 lastPixel = .ok d ∧ d.hcount.toNat = small.h0 + small.width) ∧
    ∃ d, tick { small with fetchPolicy := .rowLatch } 0 { lastPixel with hcount := 8, rowbuf := [(0, 0x80)] } = .ok d ∧
      d.scanBusy = true ∧ d.pinColor = .high ∧ Config.wf { small with fetchPolicy := .rowLatch } = true :=
  ⟨by decide, rfl, rfl, ⟨_, rfl, rfl, by decide⟩, ⟨_, rfl, by decide⟩, _, rfl, rfl, rfl, by decide⟩

theorem witness_ColourConfinedToActiveWindow : ∃ (s : State) (d : Driver), s.DriversInv ∧ d ∈ s.drivers ∧
    d.pinColor = Level.drive s.cfg.colorActive :=
  ⟨{ running with self := lastPixel }, lastPixel, drivers_of rfl inv_lastPixel inv_fresh,
    List.mem_cons_self .., rfl⟩

/-- The first pixel of the first row, and the last pixel of the last row. -/
theorem witness_EveryPixelAppearsAtItsPosition : small.wf = true ∧
    ((beforeRow 0 [(0, 0x01)]).Inv small ∧ (beforeRow 0 [(0, 0x01)]).tcArmed = true ∧
      (beforeRow 0 [(0, 0x01)]).seArmed = true ∧ 0 < small.height ∧ 0 < small.width ∧
      (beforeRow 0 [(0, 0x01)]).vcount.toNat + 1 = small.v0 + 0 ∧
      (beforeRow 0 [(0, 0x01)]).hcount.toNat + 1 = small.hTotal) ∧
    ((beforeRow 1 [(1, 0x80)]).Inv small ∧ (beforeRow 1 [(1, 0x80)]).tcArmed = true ∧
      (beforeRow 1 [(1, 0x80)]).seArmed = true ∧ 1 < small.height ∧ 7 < small.width ∧
      (beforeRow 1 [(1, 0x80)]).vcount.toNat + 1 = small.v0 + 1 ∧
      (beforeRow 1 [(1, 0x80)]).hcount.toNat + 1 = small.hTotal) :=
  ⟨by decide, ⟨inv_beforeRow.1, by decide⟩, ⟨inv_beforeRow.2, by decide⟩⟩

theorem witness_PoolOperations : [0, 1, 63].Pairwise (fun p q : Pin => p < q) ∧ 2 ≤ (Pool.mk [0, 1, 63] 2 2).freeTiming ∧
    2 ≤ (Pool.mk [0, 1, 63] 2 2).freeOutput := by decide

/-- What the statement asks of a state besides the pins. -/
def readyBesideRunning (s : State) : Bool :=
  s.peers == [running.self] && s.cfg.wf && s.self.fillNext == none && s.self.constructed && s.self.lcState == .idle &&
    decide (s.cfg.tcChannels ≤ s.pool.freeTiming) && running.self.claimedPins == [1, 2, 3]

/-- Each of the two sync pins against each of the other's, and the colour pin against the other's colour and hsync. -/
theorem witness_SecondInstanceGetsPinConflict :
    ((secondWith 6 1 5).self.Inv small ∧ (secondWith 6 1 5).PoolInv ∧ readyBesideRunning (secondWith 6 1 5) = true) ∧
    ((secondWith 6 5 2).self.Inv small ∧ (secondWith 6 5 2).PoolInv ∧ readyBesideRunning (secondWith 6 5 2) = true) ∧
    ((secondWith 6 2 5).self.Inv small ∧ (secondWith 6 2 5).PoolInv ∧ readyBesideRunning (secondWith 6 2 5) = true) ∧
    ((secondWith 6 5 1).self.Inv small ∧ (secondWith 6 5 1).PoolInv ∧ readyBesideRunning (secondWith 6 5 1) = true) ∧
    ((secondWith 3 5 6).self.Inv small ∧ (secondWith 3 5 6).PoolInv ∧ readyBesideRunning (secondWith 3 5 6) = true) ∧
    ((secondWith 1 5 6).self.Inv small ∧ (secondWith 1 5 6).PoolInv ∧ readyBesideRunning (secondWith 1 5 6) = true) :=
  ⟨⟨inv_of, poolInv_of, by decide⟩, ⟨inv_of, poolInv_of, by decide⟩, ⟨inv_of, poolInv_of, by decide⟩,
    ⟨inv_of, poolInv_of, by decide⟩, ⟨inv_of, poolInv_of, by decide⟩, ⟨inv_of, poolInv_of, by decide⟩⟩

/-- At the instance in focus, and at a peer. -/
theorem witness_InstancesAreIsolated : (∃ t, atInstance 0 (act .tick) running = .next t) ∧
    ∃ t, atInstance 1 (act .tick) running = .next t :=
  ⟨⟨_, rfl⟩, ⟨_, rfl⟩⟩

/-- A command whose response is open, one that answers, and one that is refused. -/
theorem witness_ResponseOfEveryCommand : (∃ t, exec (.fill 1) built = .next t ∧ t.self.rsp = none) ∧
    ((present 0x80000001 built).input = [.act 0 (.command 0x80000001)] ∧ ∃ t, step (present 0x80000001 built) = .next t) ∧
    step (present 0x30000000 fresh) = .refused .unconstructed ∧
    ∃ t, exec (.getPixel 0 0) { built with self := { built.self with fb := [(0, 0x01)] } } = .next t ∧
      t.self.rsp = some ⟨.ok, true⟩ :=
  ⟨⟨_, rfl, rfl⟩, ⟨rfl, _, rfl⟩, rfl, _, rfl, rfl⟩

theorem witness_WriteRowWritesTheRow : built.cfg.wf = true ∧ built.self.fillNext = none ∧ built.self.constructed = true ∧
    built.self.fb.wf = true ∧ (Pseudo.writeRow 1 [0xA5]).wf built.cfg = true ∧ (1 : BitVec 12).toNat < built.cfg.height := by
  decide

theorem witness_RestartBeginsNewFrame : running.DriversInv ∧ running.PoolInv ∧ running.self.fillNext = none ∧
    running.self.lcState = .running :=
  ⟨driversInv_running, poolInv_running, rfl, rfl⟩

end Sys2Proof.Tests
end

section
/-! Reset (10_state.md R50; 70_reset_and_hazards.md R270): the drivers right after it, and what they hold of the pool. -/

namespace Sys2Proof.Machine

/-- A driver in its reset state meets the invariants, whatever canonical content its framebuffer has (R28, R50). -/
theorem Driver.reset_withFb_inv {c : Config} {m : Memory} (hwf : m.wf = true) (hb : m.below c.nbytes = true) :
    ({ Driver.reset with fb := m } : Driver).Inv c where
  memory := ⟨hwf, hb⟩
  latches := ⟨rfl, rfl, List.Pairwise.nil, by simp [Driver.reset]⟩
  unbuilt := fun _ => rfl
  mode := nofun
  running := by simp [Driver.reset]
  idle := fun _ => ⟨rfl, rfl⟩
  disarmed := fun _ => ⟨rfl, rfl, rfl, rfl⟩
  armed := nofun
  released := fun _ => ⟨rfl, rfl⟩
  tracking := nofun
  colour := nofun
  filling := nofun

theorem Driver.reset_inv (c : Config) : Driver.reset.Inv c := Driver.reset_withFb_inv (m := []) rfl rfl

theorem resetDriver_inv (c : Config) (n : Nat) : (resetDriver c n).Inv c :=
  Driver.reset_withFb_inv (unspecifiedFb_wf c n) (unspecifiedFb_below c n)

@[simp] theorem Driver.reset_claimedPins : Driver.reset.claimedPins = [] := rfl
@[simp] theorem Driver.reset_claimedTiming (c : Config) : Driver.reset.claimedTiming c = 0 := rfl
@[simp] theorem Driver.reset_claimedOutput (c : Config) : Driver.reset.claimedOutput c = 0 := rfl
@[simp] theorem resetDriver_claimedPins (c : Config) (n : Nat) : (resetDriver c n).claimedPins = [] := rfl

@[simp] theorem length_resetPeers (c : Config) (n : Nat) (ds : List Driver) :
    (resetPeers c n ds).length = ds.length := by
  induction ds generalizing n with
  | nil => rfl
  | cons d ds ih => rw [resetPeers, List.length_cons, List.length_cons, ih]

theorem exists_of_mem_resetPeers {c : Config} {n : Nat} {ds : List Driver} {d : Driver} (h : d ∈ resetPeers c n ds) :
    ∃ k, d = resetDriver c k := by
  induction ds generalizing n with
  | nil => cases h
  | cons e es ih =>
    rw [resetPeers] at h
    rcases List.mem_cons.1 h with rfl | h
    · exact ⟨n, rfl⟩
    · exact ih h

/-- Device reset puts every driver in its reset state (R270, R271). -/
theorem exists_of_mem_drivers_deviceReset {s : State} {d : Driver} (h : d ∈ (deviceReset s).drivers) :
    ∃ k, d = resetDriver s.cfg k := by
  rcases List.mem_cons.1 h with rfl | h
  · exact ⟨s.draws, rfl⟩
  · exact exists_of_mem_resetPeers h

theorem deviceReset_driversInv (s : State) : (deviceReset s).DriversInv := by
  intro d hd
  obtain ⟨k, rfl⟩ := exists_of_mem_drivers_deviceReset hd
  exact resetDriver_inv s.cfg k

theorem mem_drivers_resetOf {c : Config} {n : Nat} {d : Driver} (h : d ∈ (State.resetOf c n).drivers) :
    d = Driver.reset := by
  rcases List.mem_cons.1 h with rfl | h
  · rfl
  · exact List.eq_of_mem_replicate h

/-- Right after reset no driver claims a pin. -/
theorem resetOf_claimedPins (c : Config) (n : Nat) : (State.resetOf c n).claimedPins = [] :=
  List.flatMap_eq_nil_iff.2 fun d hd => by rw [mem_drivers_resetOf hd, Driver.reset_claimedPins]

theorem resetOf_driversInv (c : Config) (n : Nat) : (State.resetOf c n).DriversInv := by
  intro d hd
  rw [mem_drivers_resetOf hd]
  exact Driver.reset_inv c

theorem resetOf_poolInv (c : Config) (n : Nat) : (State.resetOf c n).PoolInv where
  rising := List.Pairwise.nil
  disjoint := by simp [resetOf_claimedPins]
  union := fun p => by rw [resetOf_claimedPins]; exact Iff.rfl
  timing := by simp [State.drivers, State.resetOf, Pool.reset]
  output := by simp [State.drivers, State.resetOf, Pool.reset]

end Sys2Proof.Machine
end

section
/-! What a TICK leaves alone, field by field (41_timing_controller.md R147; 42_scanout_engine.md R186), and what a whole
step leaves alone (20_memory.md R75). -/

namespace Sys2Proof.Machine

/-- A TICK changes the position, the scanout state, its latches and the three pins, and nothing else. -/
theorem tick_frame {c : Config} {n : Nat} {d d' : Driver} (h : tick c n d = .ok d') :
    d' = { d with
      hcount := d'.hcount, vcount := d'.vcount, pinHsync := d'.pinHsync, pinVsync := d'.pinVsync,
      pinColor := d'.pinColor, scanBusy := d'.scanBusy, scanLine := d'.scanLine, shreg := d'.shreg,
      rowbuf := d'.rowbuf, fetched := d'.fetched } := by
  rcases tick_eq_ok.1 h with ⟨-, rfl⟩ | ⟨-, -, rfl⟩ | ⟨-, -, hse⟩
  · rfl
  · rfl
  · rw [seTick_frame hse]
    rfl

theorem tick_constructed {c : Config} {n : Nat} {d d' : Driver} (h : tick c n d = .ok d') :
    d'.constructed = d.constructed := by rw [tick_frame h]
theorem tick_lcState {c : Config} {n : Nat} {d d' : Driver} (h : tick c n d = .ok d') :
    d'.lcState = d.lcState := by rw [tick_frame h]
theorem tick_cfgMode {c : Config} {n : Nat} {d d' : Driver} (h : tick c n d = .ok d') :
    d'.cfgMode = d.cfgMode := by rw [tick_frame h]
theorem tick_tcArmed {c : Config} {n : Nat} {d d' : Driver} (h : tick c n d = .ok d') :
    d'.tcArmed = d.tcArmed := by rw [tick_frame h]
theorem tick_seArmed {c : Config} {n : Nat} {d d' : Driver} (h : tick c n d = .ok d') :
    d'.seArmed = d.seArmed := by rw [tick_frame h]
theorem tick_fb {c : Config} {n : Nat} {d d' : Driver} (h : tick c n d = .ok d') :
    d'.fb = d.fb := by rw [tick_frame h]
theorem tick_fillNext {c : Config} {n : Nat} {d d' : Driver} (h : tick c n d = .ok d') :
    d'.fillNext = d.fillNext := by rw [tick_frame h]

/-- What a TICK of every peer keeps, when a TICK keeps it. -/
theorem tickPeers_induct {c : Config} {p : Driver → Prop}
    (hp : ∀ n d d', p d → tick c n d = .ok d' → p d') {n : Nat} {ds es : List Driver}
    (hds : ∀ d ∈ ds, p d) (h : tickPeers c n ds = .ok es) : es.length = ds.length ∧ ∀ e ∈ es, p e := by
  induction ds generalizing n es with
  | nil => cases h; exact ⟨rfl, by simp⟩
  | cons d ds ih =>
    obtain ⟨e, es, he, hes, rfl⟩ := tickPeers_cons_eq_ok.1 h
    obtain ⟨hd, hds⟩ := List.forall_mem_cons.1 hds
    obtain ⟨hlen, hall⟩ := ih hds hes
    exact ⟨by simp [hlen], List.forall_mem_cons.2 ⟨hp n d e hd he, hall⟩⟩

theorem length_tickPeers {c : Config} {n : Nat} {ds es : List Driver} (h : tickPeers c n ds = .ok es) :
    es.length = ds.length :=
  (tickPeers_induct (p := fun _ => True) (fun _ _ _ _ _ => trivial) (fun _ _ => trivial) h).1

/-- An action of a driver keeps the parameters and the number of drivers. -/
theorem atInstance_act_cfg_length {inst : Nat} {a : Action} {s t : State} (h : atInstance inst (act a) s = .next t) :
    t.cfg = s.cfg ∧ t.peers.length = s.peers.length := by
  rcases atInstance_eq_next.1 h with ⟨-, hu⟩ | ⟨k, d, u, -, -, hu, rfl⟩
  · obtain ⟨hcfg, hpeers, -⟩ := act_frame hu
    exact ⟨hcfg, by rw [hpeers]⟩
  · obtain ⟨hcfg, -, -⟩ := act_frame hu
    exact ⟨hcfg, List.length_set⟩

/-- No step changes the parameters or the number of drivers (R25, R75). -/
theorem step_cfg_length {s t : State} (h : step s = .next t) :
    t.cfg = s.cfg ∧ t.peers.length = s.peers.length := by
  rcases step_eq_next.1 h with ⟨-, h⟩ | ⟨inst, a, es, -, h⟩ | ⟨es, -, rfl⟩
  · obtain ⟨d, ds, -, hds, rfl⟩ := clockEdge_eq_next.1 h
    exact ⟨rfl, length_tickPeers hds⟩
  · exact atInstance_act_cfg_length (s := { s with input := es }) h
  · exact ⟨rfl, length_resetPeers ..⟩

end Sys2Proof.Machine
end

section
/-! What the invariants say of the armed bits, and the updates that keep them (10_state.md R28, R47). -/

namespace Sys2Proof.Machine

/-- A driver with an armed TimingController is running (R28 (b), (c)). -/
theorem Driver.Inv.running_of_tcArmed {c : Config} {d : Driver} (h : d.Inv c) (htc : d.tcArmed = true) :
    d.lcState = .running := by
  cases hl : d.lcState with
  | idle => rw [(h.idle hl).1] at htc; cases htc
  | running => rfl

/-- Both components are armed together (R28). -/
theorem Driver.Inv.seArmed_of_tcArmed {c : Config} {d : Driver} (h : d.Inv c) (htc : d.tcArmed = true) :
    d.seArmed = true :=
  (h.running.1 (h.running_of_tcArmed htc)).2

theorem Driver.Inv.constructed_of_tcArmed {c : Config} {d : Driver} (h : d.Inv c) (htc : d.tcArmed = true) :
    d.constructed = true :=
  h.constructed_of_running (h.running_of_tcArmed htc)

/-- A driver inside a `FILL` pass is constructed (R28 (a), R47). -/
theorem Driver.Inv.constructed_of_filling {c : Config} {d : Driver} {p : FillPass} (h : d.Inv c)
    (hp : d.fillNext = some p) : d.constructed = true := by
  cases hc : d.constructed with
  | true => rfl
  | false => rw [(h.unbuilt_fields hc).2.2.2] at hp; cases hp

/-- The invariants say nothing of the response port. -/
theorem Driver.Inv.withRsp {c : Config} {d : Driver} (h : d.Inv c) (r : Option Response) :
    ({ d with rsp := r } : Driver).Inv c :=
  { h with }

/-- A canonical framebuffer content may take the place of another. -/
theorem Driver.Inv.withFb {c : Config} {d : Driver} {m : Memory} (h : d.Inv c) (hwf : m.wf = true)
    (hb : m.below c.nbytes = true) : ({ d with fb := m } : Driver).Inv c :=
  { h with memory := ⟨hwf, hb⟩ }

/-- A byte write inside the framebuffer keeps the invariants (R67, R74). -/
theorem Driver.Inv.withByte {c : Config} {d : Driver} (h : d.Inv c) {a : Nat} (ha : a < c.nbytes) (v : Byte) :
    ({ d with fb := d.fb.write a v } : Driver).Inv c :=
  h.withFb (Memory.wf_write h.memory.1 a v) (Memory.below_write h.memory.2 ha v)

/-- The `FILL` progress of a constructed driver may be any whose next address exists (R47). -/
theorem Driver.Inv.withFillNext {c : Config} {d : Driver} (h : d.Inv c) (hc : d.constructed = true)
    {f : Option FillPass} (hf : ∀ p, f = some p → p.next < c.nbytes) : ({ d with fillNext := f } : Driver).Inv c :=
  { h with unbuilt := fun hu => absurd hc (Bool.eq_false_iff.1 hu), filling := hf }

end Sys2Proof.Machine
end

section
/-! Every TICK keeps the invariants: the counters stay inside the frame (10_state.md R30, R31), the latches inside the row
(R35), and the row served is the one of the beam's line (42_scanout_engine.md R173, R179). -/

namespace Sys2Proof.Machine

/-! ## The counters -/

/-- The next position lies inside the frame (R147). -/
theorem advancePosition_inFrame {c : Config} {d : Driver} (hwf : c.wf = true) (hh : d.hcount.toNat < c.hTotal)
    (hv : d.vcount.toNat < c.vTotal) :
    (advancePosition c d).hcount.toNat < c.hTotal ∧ (advancePosition c d).vcount.toNat < c.vTotal := by
  obtain ⟨-, -, -, -, -, -, -, -, -, hH, hV, -⟩ := Config.wf_iff.1 hwf
  rw [advancePosition_hcount hH hh, advancePosition_vcount hV hv]
  constructor
  · split <;> omega
  · split <;> [split; skip] <;> omega

/-- Anywhere but at its beginning, a line goes on: `hcount` counts and `vcount` stays (R147). -/
theorem advancePosition_insideLine {c : Config} {d : Driver} (hwf : c.wf = true) (hh : d.hcount.toNat < c.hTotal)
    (hpos : (advancePosition c d).hcount.toNat ≠ 0) :
    (advancePosition c d).hcount.toNat = d.hcount.toNat + 1 ∧ (advancePosition c d).vcount = d.vcount := by
  obtain ⟨-, -, -, -, -, -, -, -, -, hH, -⟩ := Config.wf_iff.1 hwf
  rw [advancePosition_hcount hH hh] at hpos ⊢
  split at hpos
  · exact absurd rfl hpos
  · rename_i hne
    exact ⟨if_neg hne, by simp only [advancePosition, if_neg hne]⟩

/-! ## The latches -/

/-- The row latch and the set of fetched indices keep to the row's bytes, in canonical form (R35, R185). -/
def Driver.LatchesOk (c : Config) (d : Driver) : Prop :=
  d.rowbuf.wf = true ∧ d.rowbuf.below c.rowBytes = true ∧ d.fetched.Pairwise (· < ·) ∧ ∀ k ∈ d.fetched, k < c.rowBytes

/-- Latching bytes of the row lists only the row's indices. -/
theorem latchBytes_below {c : Config} {d : Driver} {ks : List Nat} {buf buf' : Memory} {n : Nat}
    (hb : buf.below n = true) (hk : ∀ k ∈ ks, k < n) (h : latchBytes c d ks buf = .ok buf') :
    buf'.below n = true := by
  induction ks generalizing buf with
  | nil => cases h; exact hb
  | cons k ks ih =>
    obtain ⟨hkn, hks⟩ := List.forall_mem_cons.1 hk
    rw [latchBytes] at h
    split at h
    · exact ih (Memory.below_write hb hkn _) hks h
    · cases h

theorem seBegin_latchesOk {c : Config} {d : Driver} (h : d.LatchesOk c) : (seBegin c d).LatchesOk c := by
  obtain ⟨hwf, hb, hrise, hlt⟩ := h
  unfold seBegin
  split
  · split <;> exact ⟨hwf, hb, List.Pairwise.nil, nofun⟩
  · exact ⟨hwf, hb, hrise, hlt⟩

/-- `JIT` leaves the row latch alone (R174). -/
theorem fetchJit_latchesOk {c : Config} {d d' : Driver} (hl : d.LatchesOk c) (h : fetchJit c d = .ok d') :
    d'.LatchesOk c := by
  unfold fetchJit at h
  split at h
  · split at h
    · cases h; exact hl
    · cases h
  · cases h; exact hl

/-- `ROW_LATCH` latches the bytes of the row (R185). -/
theorem fetchRow_latchesOk {c : Config} {d d' : Driver} (hl : d.LatchesOk c) (h : fetchRow c d = .ok d') :
    d'.LatchesOk c := by
  unfold fetchRow at h
  split at h
  · split at h
    · rename_i buf hbuf
      obtain ⟨hwf, hb, hfetched⟩ := hl
      cases h
      exact ⟨(latchBytes_read hwf hbuf).1, latchBytes_below hb (fun _ hk => List.mem_range.1 hk) hbuf, hfetched⟩
    · cases h
  · cases h; exact hl

/-- `ANY` latches some bytes of the row and notes their indices, in rising order (R185). -/
theorem fetchAny_latchesOk {c : Config} {n : Nat} {d d' : Driver} (hl : d.LatchesOk c) (h : fetchAny c n d = .ok d') :
    d'.LatchesOk c := by
  have hrow : ∀ (p : Nat → Bool), ∀ k ∈ (List.range c.rowBytes).filter p, k < c.rowBytes :=
    fun _ _ hk => List.mem_range.1 (List.mem_filter.1 hk).1
  unfold fetchAny at h
  split at h
  · split at h
    · rename_i buf hbuf
      obtain ⟨hwf, hb, -⟩ := hl
      cases h
      exact ⟨(latchBytes_read hwf hbuf).1, latchBytes_below hb (hrow _) hbuf, List.pairwise_lt_range.filter _, hrow _⟩
    · cases h
  · cases h; exact hl

/-- A fetch keeps the latches inside the row, whatever the policy (R78). -/
theorem seFetch_latchesOk {c : Config} {n : Nat} {d d' : Driver} (hl : d.LatchesOk c) (h : seFetch c n d = .ok d') :
    d'.LatchesOk c := by
  unfold seFetch at h
  split at h
  · exact fetchJit_latchesOk hl h
  · exact fetchRow_latchesOk hl h
  · exact fetchAny_latchesOk hl h

theorem seTick_latchesOk {c : Config} {n : Nat} {d d' : Driver} (hl : d.LatchesOk c) (h : seTick c n d = .ok d') :
    d'.LatchesOk c := by
  obtain ⟨e, he, rfl⟩ := seTick_eq_ok.1 h
  simpa [Driver.LatchesOk] using seFetch_latchesOk (seBegin_latchesOk hl) he

/-! ## The row being served -/

/-- A row is being served after the begin of `SE.tick` either because the signal just chose it, or because it was being
served before and no signal came (R172). -/
theorem seBegin_busy {c : Config} {d : Driver} (h : (seBegin c d).scanBusy = true) :
    (d.hcount.toNat = c.lbLatency ∧ c.v0 ≤ d.vcount.toNat ∧ d.vcount.toNat < c.v0 + c.vActive ∧
      (seBegin c d).scanLine = BitVec.ofNat 9 (d.vcount.toNat - c.v0)) ∨
    (d.hcount.toNat ≠ c.lbLatency ∧ d.scanBusy = true ∧ (seBegin c d).scanLine = d.scanLine) := by
  unfold seBegin at h ⊢
  split at h
  · rename_i hlb
    split at h
    · rename_i hvw
      simp only [vWindow, Bool.and_eq_true, decide_eq_true_eq] at hvw
      rw [if_pos hlb]
      exact .inl ⟨beq_iff_eq.1 hlb, hvw.1, hvw.2, by simp [vWindow, hvw]⟩
    · cases h
  · rename_i hlb
    rw [if_neg hlb]
    exact .inr ⟨fun he => hlb (beq_iff_eq.2 he), h, rfl⟩

/-- A row is still being served after the end of `SE.tick` when its last pixel period is not over (R176). -/
theorem seEnd_busy {c : Config} {d : Driver} :
    (seEnd c d).scanBusy = true ↔ d.scanBusy = true ∧ d.hcount.toNat ≠ c.h0 + c.width := by
  unfold seEnd
  split <;> simp_all

/-- The row served is a row of the screen and, from the line-boundary signal on, the one of the beam's line (R173, R179). -/
def Driver.ServesBeamLine (c : Config) (d : Driver) : Prop :=
  d.scanLine.toNat < c.height ∧
    (c.lbLatency ≤ d.hcount.toNat →
      c.v0 ≤ d.vcount.toNat ∧ d.vcount.toNat < c.v0 + c.vActive ∧ d.scanLine.toNat = d.vcount.toNat - c.v0 ∧
        d.hcount.toNat < c.h0 + c.width)

theorem Driver.Inv.servesBeamLine {c : Config} {d : Driver} (h : d.Inv c) (hb : d.scanBusy = true) :
    d.ServesBeamLine c := by
  obtain ⟨-, -, hserves⟩ := h.tracking hb
  exact hserves

/-- After a TICK the row served is that of the beam's line: at the signal because the signal chooses it, after the signal
because the line is still the same, and only for `W` pixel periods because the row's end stops the engine (R172, R176). -/
theorem seTick_servesBeamLine {c : Config} {n : Nat} {d d' : Driver} (hwf : c.wf = true)
    (hh : d.hcount.toNat < c.hTotal) (hd : d.scanBusy = true → d.ServesBeamLine c)
    (h : seTick c n (advancePosition c d) = .ok d') (hb : d'.scanBusy = true) : d'.ServesBeamLine c := by
  obtain ⟨-, -, -, hact, -, -, hw, hht, -, -, -, hh9, hlat, -⟩ := Config.wf_iff.1 hwf
  obtain ⟨e, he, rfl⟩ := seTick_eq_ok.1 h
  have hf := seFetch_frame he
  have hbusy : e.scanBusy = (seBegin c (advancePosition c d)).scanBusy := by rw [hf]
  have hline : e.scanLine = (seBegin c (advancePosition c d)).scanLine := by rw [hf]
  have hhc : e.hcount = (advancePosition c d).hcount := by rw [hf, seBegin_hcount]
  have hvc : e.vcount = (advancePosition c d).vcount := by rw [hf, seBegin_vcount]
  obtain ⟨heb, hend⟩ := seEnd_busy.1 hb
  simp only [seShow_scanBusy, seShow_hcount, hbusy, hhc] at heb hend
  simp only [Driver.ServesBeamLine, seEnd_scanLine, seEnd_hcount, seEnd_vcount, seShow_scanLine, seShow_hcount,
    seShow_vcount, hline, hhc, hvc]
  rcases seBegin_busy heb with ⟨hlb, hlo, hhi, hsl⟩ | ⟨hlb, hold, hsl⟩
  · have hnat : (seBegin c (advancePosition c d)).scanLine.toNat = (advancePosition c d).vcount.toNat - c.v0 := by
      rw [hsl, BitVec.toNat_ofNat]
      exact Nat.mod_eq_of_lt (by omega)
    rw [hnat]
    exact ⟨by omega, fun _ => ⟨hlo, hhi, rfl, by omega⟩⟩
  · obtain ⟨hscreen, htrack⟩ := hd hold
    rw [hsl]
    refine ⟨hscreen, fun hle => ?_⟩
    obtain ⟨hnext, hsame⟩ := advancePosition_insideLine hwf hh (by omega)
    obtain ⟨hlo, hhi, hsl', hin⟩ := htrack (by omega)
    rw [hsame]
    exact ⟨hlo, hhi, hsl', by omega⟩

/-! ## The step -/

/-- A TICK shows the level of the pixel the engine holds (R175). -/
theorem seTick_pinColor {c : Config} {n : Nat} {d d' : Driver} (h : seTick c n d = .ok d') :
    d'.pinColor = scanLevel c d' := by
  obtain ⟨e, -, rfl⟩ := seTick_eq_ok.1 h
  rw [seEnd_pinColor, seShow_pinColor, scanLevel_seEnd, scanLevel_seShow]

/-- A TICK of an armed driver keeps the invariants. -/
theorem tick_armed_inv {c : Config} {n : Nat} {d d' : Driver} (hi : d.Inv c) (htc : d.tcArmed = true)
    (hs : seTick c n (advancePosition c d) = .ok d') : d'.Inv c := by
  have hse := hi.seArmed_of_tcArmed htc
  have h : tick c n d = .ok d' := tick_eq_ok.2 (.inr (.inr ⟨htc, hse, hs⟩))
  have hcon := hi.constructed_of_tcArmed htc
  obtain ⟨hwf, hmode⟩ := hi.mode hcon
  obtain ⟨hh, hv, -, -⟩ := hi.armed htc
  have hcon' : d'.constructed = true := (tick_constructed h).trans hcon
  have htc' : d'.tcArmed = true := (tick_tcArmed h).trans htc
  have hse' : d'.seArmed = true := (tick_seArmed h).trans hse
  have hframe := seTick_frame hs
  have hhc : d'.hcount = (advancePosition c d).hcount := by rw [hframe]
  have hvc : d'.vcount = (advancePosition c d).vcount := by rw [hframe]
  have hph : d'.pinHsync = (advancePosition c d).pinHsync := by rw [hframe]
  have hpv : d'.pinVsync = (advancePosition c d).pinVsync := by rw [hframe]
  obtain ⟨hh', hv'⟩ := advancePosition_inFrame hwf hh hv
  exact {
    memory := by rw [tick_fb h]; exact hi.memory
    latches := seTick_latchesOk (d := advancePosition c d) hi.latches hs
    unbuilt := fun hu => absurd hcon' (Bool.eq_false_iff.1 hu)
    mode := fun _ => ⟨hwf, (tick_cfgMode h).trans hmode⟩
    running := by rw [tick_lcState h, tick_tcArmed h, tick_seArmed h]; exact hi.running
    idle := by rw [tick_lcState h, tick_tcArmed h, tick_seArmed h]; exact hi.idle
    disarmed := fun hu => absurd htc' (Bool.eq_false_iff.1 hu)
    armed := fun _ => by rw [hph, hpv, hhc, hvc]; exact ⟨hh', hv', rfl, rfl⟩
    released := fun hu => absurd hse' (Bool.eq_false_iff.1 hu)
    tracking := fun hb => ⟨hse', htc', seTick_servesBeamLine hwf hh hi.servesBeamLine hs hb⟩
    colour := fun _ => seTick_pinColor hs
    filling := by rw [tick_fillNext h]; exact hi.filling }

/-- Every TICK keeps the invariants of its driver. -/
theorem tick_inv {c : Config} {n : Nat} {d d' : Driver} (hi : d.Inv c) (h : tick c n d = .ok d') : d'.Inv c := by
  rcases tick_eq_ok.1 h with ⟨-, rfl⟩ | ⟨htc, hse, -⟩ | ⟨htc, -, hs⟩
  · exact hi
  · exact absurd (hi.seArmed_of_tcArmed htc) (Bool.eq_false_iff.1 hse)
  · exact tick_armed_inv hi htc hs

end Sys2Proof.Machine
end

section
/-! Every command and every byte write of a `FILL` pass keeps the invariants of the driver it acts on, and so every step
keeps those of all drivers (10_state.md R28, R47). -/

namespace Sys2Proof.Machine

/-! ## DriverLifecycle -/

/-- `CONSTRUCT` of the supported mode builds an idle driver with a clear buffer (43_driver_lifecycle.md R200). -/
theorem constructed_inv {c : Config} {d : Driver} (hi : d.Inv c) (hu : d.constructed = false) (hwf : c.wf = true)
    (col hs vs : Pin) : (constructed col hs vs { d with cfgMode := c.modeVga640 }).Inv c := by
  obtain ⟨-, htc, hse, hfill⟩ := hi.unbuilt_fields hu
  obtain ⟨-, -, hhs, hvs⟩ := hi.disarmed htc
  exact {
    memory := ⟨rfl, rfl⟩
    latches := hi.latches
    unbuilt := nofun
    mode := fun _ => ⟨hwf, rfl⟩
    running := by simp
    idle := fun _ => ⟨rfl, rfl⟩
    disarmed := fun _ => ⟨rfl, rfl, hhs, hvs⟩
    armed := nofun
    released := fun _ => ⟨(hi.released hse).1, rfl⟩
    tracking := nofun
    colour := nofun
    filling := hi.filling }

/-- Both arms of a `START` leave a running driver at the beginning of a frame (R204). -/
theorem started_inv {c : Config} {P P₁ P₂ : Pool} {d d₁ d₂ : Driver} (hi : d.Inv c) (hc : d.constructed = true)
    (h₁ : tcArm c P d = .ok (P₁, d₁)) (h₂ : seArm c P₁ d₁ = .ok (P₂, d₂)) :
    ({ d₂ with lcState := .running } : Driver).Inv c := by
  obtain ⟨-, -, -, -, -, rfl⟩ := tcArm_eq_ok.1 h₁
  obtain ⟨-, -, -, rfl⟩ := seArm_eq_ok.1 h₂
  obtain ⟨hH, hV, hhs, -, hvs, -⟩ := Config.wf_iff.1 (hi.mode hc).1
  exact {
    memory := hi.memory
    latches := hi.latches
    unbuilt := fun hu => absurd hc (Bool.eq_false_iff.1 hu)
    mode := hi.mode
    running := by simp
    idle := nofun
    disarmed := nofun
    armed := fun _ => ⟨show 0 < c.hTotal by omega, show 0 < c.vTotal by omega, rfl, rfl⟩
    released := nofun
    tracking := nofun
    colour := fun _ => rfl
    filling := hi.filling }

/-- Both disarms of a `STOP` leave an idle driver with its pins released (R208). -/
theorem stopped_inv {c : Config} {P : Pool} {d : Driver} (hi : d.Inv c) (hr : d.lcState = .running) :
    ({ (stopArms c P d).2 with lcState := .idle } : Driver).Inv c := by
  obtain ⟨htc, hse⟩ := hi.running.1 hr
  have hc := hi.constructed_of_running hr
  rw [stopArms, stopArms_armed htc hse]
  exact {
    memory := hi.memory
    latches := hi.latches
    unbuilt := fun hu => absurd hc (Bool.eq_false_iff.1 hu)
    mode := hi.mode
    running := by simp
    idle := fun _ => ⟨rfl, rfl⟩
    disarmed := fun _ => ⟨rfl, rfl, rfl, rfl⟩
    armed := nofun
    released := fun _ => ⟨rfl, rfl⟩
    tracking := nofun
    colour := nofun
    filling := hi.filling }

/-- The arms of `START` keep the invariants: an error in the second rolls the first back (R204 to R206). -/
theorem startArms_inv {s t : State} (hi : s.self.Inv s.cfg) (hc : s.self.constructed = true)
    (hidle : s.self.lcState = .idle) (h : startArms s = .next t) : t.self.Inv s.cfg := by
  obtain ⟨htc, -⟩ := hi.idle hidle
  obtain ⟨hh, hv, hph, hpv⟩ := hi.disarmed htc
  rcases startArms_eq_next.1 h with ⟨e, -, rfl⟩ | ⟨P, d, e, h₁, -, rfl⟩ | ⟨P, d, P', d', h₁, h₂, rfl⟩
  · exact hi.withRsp _
  · rw [tcDisarm_tcArm h₁ htc hh hv hph hpv]
    exact hi.withRsp _
  · exact (started_inv hi hc h₁ h₂).withRsp _

/-! ## FrameBuffer -/

theorem outOfRangeWrite_inv {s t : State} (hi : s.self.Inv s.cfg) (h : outOfRangeWrite s = .next t) :
    t.self.Inv s.cfg := by
  rw [outOfRangeWrite_frame h]
  exact hi.withRsp _

/-- `SET_PIXEL` and `CLEAR_PIXEL` write a byte of the framebuffer (40_framebuffer.md R122, R123). -/
theorem writePixel_inv {b : Bool} {x : BitVec 16} {y : BitVec 12} {s t : State} (hi : s.self.Inv s.cfg)
    (h : writePixel b x y s = .next t) : t.self.Inv s.cfg := by
  obtain ⟨-, -, ⟨-, m, hm, rfl⟩ | ⟨-, h⟩⟩ := writePixel_eq_next.1 h
  · obtain ⟨ha, rfl⟩ := pixWrite_eq_ok.1 hm
    exact (hi.withByte ha _).withRsp _
  · exact outOfRangeWrite_inv hi h

theorem execWriteRowByte_inv {y : BitVec 12} {k d : BitVec 8} {s t : State} (hi : s.self.Inv s.cfg)
    (h : execWriteRowByte y k d s = .next t) : t.self.Inv s.cfg := by
  obtain ⟨-, -, ⟨-, m, hm, rfl⟩ | ⟨-, h⟩⟩ := execWriteRowByte_eq_next.1 h
  · obtain ⟨ha, rfl⟩ := fbWrite_eq_ok.1 hm
    exact (hi.withByte ha _).withRsp _
  · exact outOfRangeWrite_inv hi h

/-- A byte write of a `FILL` pass leaves the next address inside the framebuffer, or ends the pass (R125). -/
theorem fillWrite_inv {p : FillPass} {s t : State} (hi : s.self.Inv s.cfg) (hc : s.self.constructed = true)
    (h : fillWrite p s = .next t) : t.self.Inv s.cfg := by
  obtain ⟨ha, ⟨hmore, rfl⟩ | ⟨-, rfl⟩⟩ := fillWrite_eq_next.1 h
  · exact ((hi.withByte ha _).withFillNext hc fun q hq => by cases hq; exact hmore).withRsp _
  · exact ((hi.withByte ha _).withFillNext (f := none) hc nofun).withRsp _

theorem continueFill_inv {s t : State} (hi : s.self.Inv s.cfg) (h : continueFill s = .next t) : t.self.Inv s.cfg := by
  rcases continueFill_eq_next.1 h with ⟨-, rfl⟩ | ⟨p, hp, h⟩
  · exact hi
  · exact fillWrite_inv hi (hi.constructed_of_filling hp) h

/-! ## Actions and steps -/

/-- Every command keeps the invariants of its driver. -/
theorem exec_inv {i : Instr} {s t : State} (hi : s.self.Inv s.cfg) (h : exec i s = .next t) : t.self.Inv s.cfg := by
  cases i with
  | construct mode col hs vs =>
    obtain ⟨-, hu, hwf, ⟨rfl, rfl⟩ | ⟨-, rfl⟩⟩ := execConstruct_eq_next.1 h
    · exact (constructed_inv hi hu hwf col hs vs).withRsp _
    · exact hi.withRsp _
  | destroy =>
    obtain ⟨-, -, -, rfl⟩ := execDestroy_eq_next.1 h
    exact (resetDriver_inv s.cfg s.draws).withRsp _
  | start =>
    obtain ⟨-, hc, ⟨-, rfl⟩ | ⟨hidle, -, h⟩⟩ := execStart_eq_next.1 h
    · exact hi.withRsp _
    · exact startArms_inv hi hc hidle h
  | stop =>
    obtain ⟨-, -, ⟨-, rfl⟩ | ⟨hr, rfl⟩⟩ := execStop_eq_next.1 h
    · exact hi.withRsp _
    · exact (stopped_inv hi hr).withRsp _
  | setPixel x y => exact writePixel_inv hi h
  | clearPixel x y => exact writePixel_inv hi h
  | getPixel x y =>
    obtain ⟨-, -, ⟨-, b, -, rfl⟩ | ⟨-, rfl⟩⟩ := execGetPixel_eq_next.1 h <;> exact hi.withRsp _
  | fill v =>
    obtain ⟨-, hc, h⟩ := execFill_eq_next.1 h
    exact fillWrite_inv hi hc h
  | writeRowByte y k d => exact execWriteRowByte_inv hi h

/-- Every action keeps the invariants of its driver. -/
theorem act_inv {a : Action} {s t : State} (hi : s.self.Inv s.cfg) (h : act a s = .next t) : t.self.Inv s.cfg := by
  rcases act_eq_next.1 h with ⟨w, i, -, -, h⟩ | ⟨-, h⟩ | ⟨-, h⟩
  · exact exec_inv hi h
  · exact continueFill_inv hi h
  · obtain ⟨d, hd, rfl⟩ := tickSelf_eq_next.1 h
    exact tick_inv hi hd

theorem State.driversInv_iff {s : State} : s.DriversInv ↔ s.self.Inv s.cfg ∧ ∀ d ∈ s.peers, d.Inv s.cfg :=
  List.forall_mem_cons

/-- An action of any driver keeps the invariants of all: its own by the action, the others' because it leaves them
alone. -/
theorem atInstance_act_driversInv {inst : Nat} {a : Action} {s t : State} (hs : s.DriversInv)
    (h : atInstance inst (act a) s = .next t) : t.DriversInv := by
  obtain ⟨hself, hpeers⟩ := State.driversInv_iff.1 hs
  rcases atInstance_eq_next.1 h with ⟨-, hu⟩ | ⟨k, d, u, -, hk, hu, rfl⟩
  · obtain ⟨hcfg, hp, -⟩ := act_frame hu
    rw [State.driversInv_iff, hcfg, hp]
    exact ⟨act_inv hself hu, hpeers⟩
  · have hd : d.Inv s.cfg := hpeers d (List.mem_of_getElem? hk)
    obtain ⟨hcfg, -, -⟩ := act_frame hu
    rw [State.driversInv_iff]
    simp only [hcfg]
    refine ⟨hself, fun e he => ?_⟩
    rcases List.mem_or_eq_of_mem_set he with he | rfl
    · exact hpeers e he
    · exact act_inv (s := s.withSelf d) hd hu

/-- The pixel clock keeps the invariants of all drivers. -/
theorem clockEdge_driversInv {s t : State} (hs : s.DriversInv) (h : clockEdge s = .next t) : t.DriversInv := by
  obtain ⟨hself, hpeers⟩ := State.driversInv_iff.1 hs
  obtain ⟨d, ds, hd, hds, rfl⟩ := clockEdge_eq_next.1 h
  exact State.driversInv_iff.2
    ⟨tick_inv hself hd, (tickPeers_induct (fun _ _ _ hi hn => tick_inv hi hn) hpeers hds).2⟩

/-- Every step keeps the invariants of every driver. -/
theorem step_driversInv {s t : State} (hs : s.DriversInv) (h : step s = .next t) : t.DriversInv := by
  rcases step_eq_next.1 h with ⟨-, h⟩ | ⟨inst, a, es, -, h⟩ | ⟨es, -, rfl⟩
  · exact clockEdge_driversInv hs h
  · exact atInstance_act_driversInv (hs.withInput es) h
  · exact deviceReset_driversInv _

end Sys2Proof.Machine
end

section
/-! The statements of 10_state.md. -/

namespace Sys2Proof.Machine

/-- Settles O9: every event keeps the invariants of the driver it acts on and leaves the others alone. -/
theorem stepKeepsDriverInvariants : Obligations.StepKeepsDriverInvariants :=
  fun _ _ hs h => step_driversInv hs h

/-- Settles O12: no event writes the parameters, and each keeps the number of peers. -/
theorem configurationNeverChanges : Obligations.ConfigurationNeverChanges :=
  fun _ _ h => step_cfg_length h

/-- Settles O48: a TICK changes the position, the scanout state, its latches and the pins only. -/
theorem tickFrame : Obligations.TickFrame :=
  fun _ _ _ _ h => ⟨tick_frame h, fun a => by rw [tick_fb h]⟩

/-- Settles O7: after device reset every driver is in its reset state and the pool is whole. -/
theorem deviceResetValues : Obligations.DeviceResetValues := by
  intro s es hs
  refine ⟨_, step_eq_next.2 (.inr (.inr ⟨es, hs, rfl⟩)), rfl, rfl, length_resetPeers .., rfl, rfl, rfl, fun d hd => ?_⟩
  obtain ⟨k, rfl⟩ := exists_of_mem_drivers_deviceReset hd
  simp

/-- Settles O8: right after reset every driver is in its reset state and none claims anything. -/
theorem resetMeetsInvariants : Obligations.ResetMeetsInvariants :=
  fun c n => ⟨resetOf_driversInv c n, resetOf_poolInv c n⟩

end Sys2Proof.Machine
end

section
/-! The bit accessors (20_memory.md R63, R64): what a byte holds after one bit is written, and what the
framebuffer holds after a pixel is written. -/

namespace Sys2Proof.Machine

/-- A written bit has its value, and the other bits of the byte are kept (R64). -/
theorem byteBit_setByteBit (v : Byte) {k : Nat} (hk : k < 8) (b : Bool) (j : Nat) :
    byteBit (setByteBit v k b) j = if j = k then b else byteBit v j := by
  by_cases hj : j = k
  · subst hj
    cases b <;> simp [byteBit, setByteBit, hk]
  · have hmask : (1#8 <<< k).getLsbD j = false := by
      rw [← BitVec.twoPow_eq, BitVec.getLsbD_twoPow]
      simp [Ne.symm hj]
    have hwidth : v.getLsbD j = true → j < 8 := BitVec.lt_of_getLsbD
    cases b
    · simpa [byteBit, setByteBit, hmask, hj] using hwidth
    · simp [byteBit, setByteBit, hmask, hj]

theorem pixelBit_lt (c : Config) (row column : Nat) : pixelBit c row column < 8 := Nat.mod_lt _ (by decide)

/-- `PixRead` of a pixel of the screen succeeds (R63). -/
theorem pixRead_ok {c : Config} {row column : Nat} (hr : row < c.height) (hc : column < c.width) (m : Memory) :
    pixRead c m row column = .ok (byteBit (m.read (pixelByte c row column)) (pixelBit c row column)) :=
  pixRead_eq_ok.2 ⟨pixelByte_lt hr hc, rfl⟩

/-- `PixWrite` of a pixel of the screen succeeds (R64). -/
theorem pixWrite_ok {c : Config} {row column : Nat} (hr : row < c.height) (hc : column < c.width) (m : Memory)
    (b : Bool) :
    pixWrite c m row column b = .ok (m.write (pixelByte c row column)
      (setByteBit (m.read (pixelByte c row column)) (pixelBit c row column) b)) :=
  pixWrite_eq_ok.2 ⟨pixelByte_lt hr hc, rfl⟩

/-- Every bit of the framebuffer after `PixWrite`: the pixel's has the value written, the others are kept (R64). -/
theorem byteBit_read_of_pixWrite {c : Config} {m m' : Memory} {row column : Nat} {b : Bool} (hwf : m.wf = true)
    (h : pixWrite c m row column b = .ok m') (a j : Nat) :
    byteBit (m'.read a) j =
      if a = pixelByte c row column ∧ j = pixelBit c row column then b else byteBit (m.read a) j := by
  obtain ⟨-, rfl⟩ := pixWrite_eq_ok.1 h
  by_cases ha : a = pixelByte c row column
  · subst ha
    simp [Memory.read_write_same hwf, byteBit_setByteBit _ (pixelBit_lt c row column)]
  · simp [Memory.read_write_other hwf _ ha, ha]

/-- `PixWrite` keeps every byte but the pixel's (R64). -/
theorem read_of_pixWrite_other {c : Config} {m m' : Memory} {row column : Nat} {b : Bool} (hwf : m.wf = true)
    (h : pixWrite c m row column b = .ok m') {a : Nat} (ha : a ≠ pixelByte c row column) : m'.read a = m.read a := by
  obtain ⟨-, rfl⟩ := pixWrite_eq_ok.1 h
  exact Memory.read_write_other hwf _ ha

end Sys2Proof.Machine
end

section
/-! What the storing steps leave in the framebuffer (40_framebuffer.md R121 to R126): one write at the address named, or
nothing. -/

namespace Sys2Proof.Machine

theorem outOfRangeWrite_fb {s t : State} (h : outOfRangeWrite s = .next t) : t.self.fb = s.self.fb := by
  rw [outOfRangeWrite_frame h]

theorem writePixel_fb {b : Bool} {x : BitVec 16} {y : BitVec 12} {s t : State} (h : writePixel b x y s = .next t) :
    t.self.fb = if pixelInRange s.cfg x y then
        s.self.fb.write (pixelByte s.cfg y.toNat x.toNat)
          (setByteBit (s.self.fb.read (pixelByte s.cfg y.toNat x.toNat)) (pixelBit s.cfg y.toNat x.toNat) b)
      else s.self.fb := by
  obtain ⟨-, -, ⟨hin, m, hm, rfl⟩ | ⟨hout, h⟩⟩ := writePixel_eq_next.1 h
  · rw [if_pos hin]
    exact (pixWrite_eq_ok.1 hm).2
  · rw [if_neg (Bool.eq_false_iff.1 hout)]
    exact outOfRangeWrite_fb h

theorem execWriteRowByte_fb {y : BitVec 12} {k d : BitVec 8} {s t : State} (h : execWriteRowByte y k d s = .next t) :
    t.self.fb = if rowByteInRange s.cfg y k then s.self.fb.write (rowByteAddress s.cfg y.toNat k.toNat) d
      else s.self.fb := by
  obtain ⟨-, -, ⟨hin, m, hm, rfl⟩ | ⟨hout, h⟩⟩ := execWriteRowByte_eq_next.1 h
  · rw [if_pos hin]
    exact (fbWrite_eq_ok.1 hm).2
  · rw [if_neg (Bool.eq_false_iff.1 hout)]
    exact outOfRangeWrite_fb h

theorem fillWrite_fb {p : FillPass} {s t : State} (h : fillWrite p s = .next t) :
    t.self.fb = s.self.fb.write p.next (fillByte p.value) := by
  obtain ⟨-, ⟨-, rfl⟩ | ⟨-, rfl⟩⟩ := fillWrite_eq_next.1 h <;> rfl

/-- Both pixel writes keep every byte but the pixel's, and out of range every byte (R121, R122, R123). -/
theorem writePixel_keeps_other_bytes {b : Bool} {x : BitVec 16} {y : BitVec 12} {s t : State} {a : Nat}
    (hwf : s.self.fb.wf = true) (h : writePixel b x y s = .next t) :
    (pixelInRange s.cfg x y = true → a ≠ pixelByte s.cfg y.toNat x.toNat → t.self.fb.read a = s.self.fb.read a) ∧
    (pixelInRange s.cfg x y = false → t.self.fb.read a = s.self.fb.read a) := by
  rw [writePixel_fb h]
  constructor
  · intro hin ha
    rw [if_pos hin, Memory.read_write_other hwf _ ha]
  · intro hout
    rw [if_neg (Bool.eq_false_iff.1 hout)]

/-- `WRITE_ROW_BYTE` keeps every byte but the addressed one, and out of range every byte (R121, R126). -/
theorem execWriteRowByte_keeps_other_bytes {y : BitVec 12} {k d : BitVec 8} {s t : State} {a : Nat}
    (hwf : s.self.fb.wf = true) (h : execWriteRowByte y k d s = .next t) :
    (rowByteInRange s.cfg y k = true → a ≠ rowByteAddress s.cfg y.toNat k.toNat →
      t.self.fb.read a = s.self.fb.read a) ∧
    (rowByteInRange s.cfg y k = false → t.self.fb.read a = s.self.fb.read a) := by
  rw [execWriteRowByte_fb h]
  constructor
  · intro hin ha
    rw [if_pos hin, Memory.read_write_other hwf _ ha]
  · intro hout
    rw [if_neg (Bool.eq_false_iff.1 hout)]

theorem fillWrite_keeps_other_bytes {p : FillPass} {s t : State} {a : Nat} (hwf : s.self.fb.wf = true)
    (h : fillWrite p s = .next t) (ha : a ≠ p.next) : t.self.fb.read a = s.self.fb.read a := by
  rw [fillWrite_fb h, Memory.read_write_other hwf _ ha]

end Sys2Proof.Machine
end

section
/-! What the lifecycle commands leave alone (43_driver_lifecycle.md R202, R204, R208; 20_memory.md R84). -/

namespace Sys2Proof.Machine

/-- A driver with the fields a session owns, and the response, taken from another: `lc_state`, the armed bits, the
position, `scan_busy` and the pins. `START` and `STOP` change no other field of their driver. -/
def Driver.withSessionOf (d e : Driver) : Driver :=
  { d with
    lcState := e.lcState, tcArmed := e.tcArmed, seArmed := e.seArmed, hcount := e.hcount, vcount := e.vcount,
    scanBusy := e.scanBusy, pinHsync := e.pinHsync, pinVsync := e.pinVsync, pinColor := e.pinColor, rsp := e.rsp }

/-- `START` changes the pool and the session only, the rollback of a failed `START` included (R204 to R206). -/
theorem execStart_frame {s t : State} (h : execStart s = .next t) :
    t = { s with pool := t.pool, self := s.self.withSessionOf t.self } := by
  obtain ⟨-, -, ⟨-, rfl⟩ | ⟨-, -, h⟩⟩ := execStart_eq_next.1 h
  · rfl
  · rcases startArms_eq_next.1 h with ⟨e, -, rfl⟩ | ⟨P, d, e, htc, -, rfl⟩ | ⟨P, d, P', d', htc, hse, rfl⟩
    · rfl
    · obtain ⟨-, -, -, -, -, rfl⟩ := tcArm_eq_ok.1 htc
      rfl
    · obtain ⟨-, -, -, -, -, rfl⟩ := tcArm_eq_ok.1 htc
      obtain ⟨-, -, -, rfl⟩ := seArm_eq_ok.1 hse
      rfl

theorem Driver.withSessionOf_trans {d e f : Driver} (h₁ : e = d.withSessionOf e) (h₂ : f = e.withSessionOf f) :
    f = d.withSessionOf f :=
  h₂.trans (by rw [h₁]; rfl)

theorem seDisarm_frame (c : Config) (P : Pool) (d : Driver) :
    (seDisarm c P d).2 = d.withSessionOf (seDisarm c P d).2 := by
  unfold seDisarm
  split <;> rfl

theorem tcDisarm_frame (c : Config) (P : Pool) (d : Driver) :
    (tcDisarm c P d).2 = d.withSessionOf (tcDisarm c P d).2 := by
  unfold tcDisarm
  split <;> rfl

/-- The disarms of `STOP` change the session only, whatever is armed (R153, R181). -/
theorem stopArms_frame (c : Config) (P : Pool) (d : Driver) :
    (stopArms c P d).2 = d.withSessionOf (stopArms c P d).2 :=
  Driver.withSessionOf_trans (seDisarm_frame c P d) (tcDisarm_frame ..)

/-- `STOP` changes the pool and the session only (R208). -/
theorem execStop_frame {s t : State} (h : execStop s = .next t) :
    t = { s with pool := t.pool, self := s.self.withSessionOf t.self } := by
  obtain ⟨-, -, ⟨-, rfl⟩ | ⟨-, rfl⟩⟩ := execStop_eq_next.1 h
  · rfl
  · rw [stopArms_frame]
    rfl

end Sys2Proof.Machine
end

section
/-! No step leaves the framebuffer (20_memory.md R68, R77; 42_scanout_engine.md R173): every address a command, a byte
write of a `FILL` pass or a fetch computes lies below `NBYTES`, so the model's only fault cannot happen. -/

namespace Sys2Proof.Machine

/-! ## A TICK -/

/-- The row the ScanoutEngine reads in a TICK exists: the signal chooses a row of the screen, and otherwise the row is
the one of the TICK before (R172, R173). -/
theorem seBegin_scanLine_lt {c : Config} {d : Driver} (hwf : c.wf = true)
    (hd : d.scanBusy = true → d.scanLine.toNat < c.height) (hb : (seBegin c d).scanBusy = true) :
    (seBegin c d).scanLine.toNat < c.height := by
  obtain ⟨-, -, -, -, -, -, -, hh, -⟩ := Config.wf_iff.1 hwf
  rcases seBegin_busy hb with ⟨-, hlo, hhi, hline⟩ | ⟨-, hold, hline⟩
  · rw [hline, BitVec.toNat_ofNat]
    calc (d.vcount.toNat - c.v0) % 2 ^ 9 ≤ d.vcount.toNat - c.v0 := Nat.mod_le ..
      _ < c.height := by omega
  · rw [hline]
    exact hd hold

/-- A TICK of a driver with the invariants has a next state (R147, R154). -/
theorem tick_isOk {c : Config} {d : Driver} (hi : d.Inv c) (n : Nat) : ∃ d', tick c n d = .ok d' := by
  cases htc : d.tcArmed with
  | false => exact ⟨d, tick_eq_ok.2 (.inl ⟨htc, rfl⟩)⟩
  | true =>
    obtain ⟨hwf, -⟩ := hi.mode (hi.constructed_of_tcArmed htc)
    obtain ⟨-, -, -, -, -, -, -, -, hw, -⟩ := Config.wf_iff.1 hwf
    obtain ⟨e, he⟩ := seFetch_ok hw n (d := seBegin c (advancePosition c d))
      (seBegin_scanLine_lt hwf fun hb => (hi.servesBeamLine hb).1)
    exact ⟨_, tick_eq_ok.2 (.inr (.inr ⟨htc, hi.seArmed_of_tcArmed htc, seTick_eq_ok.2 ⟨e, he, rfl⟩⟩))⟩

theorem tickPeers_isOk {c : Config} {ds : List Driver} (hi : ∀ d ∈ ds, d.Inv c) (n : Nat) :
    ∃ es, tickPeers c n ds = .ok es := by
  induction ds generalizing n with
  | nil => exact ⟨[], rfl⟩
  | cons d ds ih =>
    obtain ⟨hd, hds⟩ := List.forall_mem_cons.1 hi
    obtain ⟨e, he⟩ := tick_isOk hd n
    obtain ⟨es, hes⟩ := ih hds (n + drawsPerTick c)
    exact ⟨e :: es, tickPeers_cons_eq_ok.2 ⟨e, es, he, hes, rfl⟩⟩

/-- The pixel clock always has a next state (R154). -/
theorem clockEdge_isNext {s : State} (hs : s.DriversInv) : ∃ t, clockEdge s = .next t := by
  obtain ⟨hself, hpeers⟩ := State.driversInv_iff.1 hs
  obtain ⟨d, hd⟩ := tick_isOk hself s.draws
  obtain ⟨ds, hds⟩ := tickPeers_isOk hpeers (s.draws + drawsPerTick s.cfg)
  exact ⟨_, clockEdge_eq_next.2 ⟨d, ds, hd, hds, rfl⟩⟩

/-! ## Answers that are no fault -/

/-- The answer is a next state or a refusal. -/
def NoFault (r : Result) : Prop := ∀ f, r ≠ .fault f

@[simp] theorem noFault_next (t : State) : NoFault (.next t) := nofun
@[simp] theorem noFault_refused (why : Refusal) : NoFault (.refused why) := nofun
@[simp] theorem returnOk_noFault (s : State) : NoFault (returnOk s) := nofun
@[simp] theorem raiseError_noFault (e : Status) (s : State) : NoFault (raiseError e s) := nofun

theorem outOfRangeWrite_noFault (s : State) : NoFault (outOfRangeWrite s) := by
  unfold outOfRangeWrite
  split <;> simp

theorem whenHostIdle_noFault {s : State} {r : Result} (h : NoFault r) : NoFault (whenHostIdle s r) := by
  unfold whenHostIdle
  split
  · simp
  · exact h

theorem whenConstructed_noFault {s : State} {r : Result} (h : s.self.constructed = true → NoFault r) :
    NoFault (whenConstructed s r) := by
  refine whenHostIdle_noFault ?_
  split
  · exact h (by assumption)
  · simp

/-! ## The commands -/

theorem fillWrite_noFault {p : FillPass} {s : State} (h : p.next < s.cfg.nbytes) : NoFault (fillWrite p s) := by
  rw [fillWrite, fbWrite_ok h, withFb]
  split <;> simp

theorem continueFill_noFault {s : State} (hi : s.self.Inv s.cfg) : NoFault (continueFill s) := by
  unfold continueFill
  split
  · exact fillWrite_noFault (hi.filling _ (by assumption))
  · simp

/-- The framebuffer has a byte 0 (00_scope.md R8). -/
theorem Config.nbytes_pos {c : Config} (hwf : c.wf = true) : 0 < c.nbytes := by
  obtain ⟨-, -, -, hact, -, vact, hw, hh, -⟩ := Config.wf_iff.1 hwf
  exact Nat.zero_lt_of_lt (pixelByte_lt (c := c) (row := 0) (column := 0) (by omega) (by omega))

theorem pixelInRange_iff {c : Config} {x : BitVec 16} {y : BitVec 12} :
    pixelInRange c x y = true ↔ x.toNat < c.width ∧ y.toNat < c.height := by
  simp [pixelInRange]

theorem rowByteInRange_iff {c : Config} {y : BitVec 12} {k : BitVec 8} :
    rowByteInRange c y k = true ↔ y.toNat < c.height ∧ k.toNat < c.rowBytes := by
  simp [rowByteInRange]

theorem writePixel_noFault (b : Bool) (x : BitVec 16) (y : BitVec 12) (s : State) : NoFault (writePixel b x y s) := by
  refine whenConstructed_noFault fun _ => ?_
  split
  · rename_i hin
    obtain ⟨hx, hy⟩ := pixelInRange_iff.1 hin
    rw [pixWrite_ok hy hx]
    exact returnOk_noFault _
  · exact outOfRangeWrite_noFault s

theorem execGetPixel_noFault (x : BitVec 16) (y : BitVec 12) (s : State) : NoFault (execGetPixel x y s) := by
  refine whenConstructed_noFault fun _ => ?_
  split
  · rename_i hin
    obtain ⟨hx, hy⟩ := pixelInRange_iff.1 hin
    rw [pixRead_ok hy hx]
    exact noFault_next _
  · simp

theorem execWriteRowByte_noFault {y : BitVec 12} {k d : BitVec 8} {s : State} (hi : s.self.Inv s.cfg) :
    NoFault (execWriteRowByte y k d s) := by
  refine whenConstructed_noFault fun hc => ?_
  split
  · rename_i hin
    obtain ⟨hy, hk⟩ := rowByteInRange_iff.1 hin
    obtain ⟨-, -, -, -, -, -, -, -, hw, -⟩ := Config.wf_iff.1 (hi.mode hc).1
    rw [fbWrite_ok (rowByteAddress_lt hw hy hk)]
    exact returnOk_noFault _
  · exact outOfRangeWrite_noFault s

theorem execConstruct_noFault (mode : BitVec 4) (col hs vs : Pin) (s : State) :
    NoFault (execConstruct mode col hs vs s) := by
  refine whenHostIdle_noFault ?_
  split
  · simp
  · split
    · split <;> simp
    · simp

theorem startArms_noFault (s : State) : NoFault (startArms s) := by
  unfold startArms
  split
  · simp
  · split <;> simp

/-- No command of a driver with the invariants faults: its address is in range by its own check (R121), or by the
invariant on `FILL` progress (R47). -/
theorem exec_noFault {s : State} (hi : s.self.Inv s.cfg) (i : Instr) : NoFault (exec i s) := by
  cases i with
  | construct mode col hs vs => exact execConstruct_noFault mode col hs vs s
  | destroy =>
    refine whenConstructed_noFault fun _ => ?_
    split <;> simp
  | start =>
    refine whenConstructed_noFault fun _ => ?_
    split
    · simp
    · split
      · exact startArms_noFault s
      · simp
  | stop =>
    refine whenConstructed_noFault fun _ => ?_
    split <;> simp
  | setPixel x y => exact writePixel_noFault true x y s
  | clearPixel x y => exact writePixel_noFault false x y s
  | getPixel x y => exact execGetPixel_noFault x y s
  | fill v => exact whenConstructed_noFault fun hc => fillWrite_noFault (Config.nbytes_pos (hi.mode hc).1)
  | writeRowByte y k d => exact execWriteRowByte_noFault hi

/-! ## Actions, steps and runs -/

theorem act_noFault {s : State} (hi : s.self.Inv s.cfg) (a : Action) : NoFault (act a s) := by
  cases a with
  | command w =>
    rw [act, perform]
    split
    · exact exec_noFault hi _
    · simp
  | fillWrite => exact continueFill_noFault hi
  | tick =>
    obtain ⟨d, hd⟩ := tick_isOk hi s.draws
    rw [act, tickSelf_eq_next.2 ⟨d, hd, rfl⟩]
    exact noFault_next _

/-- Something done at any driver faults at no driver at which it does not fault in focus. -/
theorem atInstance_noFault {f : State → Result} {s : State} (hself : NoFault (f s))
    (hpeers : ∀ d ∈ s.peers, NoFault (f (s.withSelf d))) (inst : Nat) : NoFault (atInstance inst f s) := by
  cases inst with
  | zero => exact hself
  | succ k =>
    rw [atInstance]
    split
    · simp
    · rename_i d hk
      have hd := hpeers d (List.mem_of_getElem? hk)
      split
      · simp
      · rename_i e he
        exact absurd he (hd e)
      · simp

theorem happen_noFault {s : State} (hs : s.DriversInv) (e : Event) : NoFault (happen e s) := by
  cases e with
  | act inst a =>
    obtain ⟨hself, hpeers⟩ := State.driversInv_iff.1 hs
    exact atInstance_noFault (act_noFault hself a) (fun d hd => act_noFault (hpeers d hd) a) inst
  | reset => exact noFault_next _

/-- No step faults (R68, R77). -/
theorem step_noFault {s : State} (hs : s.DriversInv) : NoFault (step s) := by
  unfold step advance
  split
  · obtain ⟨t, ht⟩ := clockEdge_isNext hs
    rw [ht]
    exact noFault_next t
  · rename_i e es _
    exact happen_noFault (hs.withInput es) e

/-- One step of a run keeps the invariants, a refused one too (70_reset_and_hazards.md R293). -/
theorem proceed_driversInv {s t : State} (hs : s.DriversInv) (h : proceed s = .ok t) : t.DriversInv := by
  rcases proceed_eq_ok.1 h with h | ⟨why, -, rfl⟩
  · exact step_driversInv hs h
  · exact hs.withInput _

/-- A run of any length goes on and keeps the invariants (R293). -/
theorem runSteps_isOk {s : State} (hs : s.DriversInv) (k : Nat) : ∃ t, runSteps k s = .ok t ∧ t.DriversInv := by
  induction k generalizing s with
  | zero => exact ⟨s, rfl, hs⟩
  | succ k ih =>
    obtain ⟨u, hu⟩ := proceed_isOk (step_noFault hs)
    obtain ⟨t, ht, hinv⟩ := ih (proceed_driversInv hs hu)
    exact ⟨t, runSteps_succ_eq_ok.2 ⟨u, hu, ht⟩, hinv⟩

end Sys2Proof.Machine
end

section
/-! The statements of 20_memory.md. -/

namespace Sys2Proof.Machine

/-- Settles O10: every address computed in a step lies in the framebuffer, and every step keeps the invariants that say
so, by induction on the number of steps. -/
theorem stepNeverFaults : Obligations.StepNeverFaults :=
  ⟨fun _ f hs => step_noFault hs f, fun _ k hs => runSteps_isOk hs k⟩

/-- Settles O38: one bit of one byte is written, and a read finds it. -/
theorem pixelAccessors : Obligations.PixelAccessors := by
  intro c m r k hwf hr hk
  refine ⟨pixRead_ok hr hk m, fun b => ?_⟩
  have hw := pixWrite_ok hr hk m b
  have hbit := byteBit_read_of_pixWrite hwf hw
  refine ⟨_, hw, ?_, fun j _ hj => ?_, fun a ha => read_of_pixWrite_other hwf hw ha⟩
  · rw [pixRead_ok hr hk, hbit, if_pos ⟨rfl, rfl⟩]
  · exact (hbit _ j).trans (if_neg fun h => hj h.2)

/-- Settles O37: each storing step is one write at its address, or none. -/
theorem frameBufferStoresOneByte : Obligations.FrameBufferStoresOneByte := by
  intro s t a hwf
  refine ⟨fun x y h => ?_, fun y k d h => ?_, fun v h ha => ?_, fun p hp h ha => ?_⟩
  · rcases h with h | h
    · exact writePixel_keeps_other_bytes hwf h
    · exact writePixel_keeps_other_bytes hwf h
  · exact execWriteRowByte_keeps_other_bytes hwf h
  · obtain ⟨-, -, h⟩ := execFill_eq_next.1 h
    exact fillWrite_keeps_other_bytes hwf h ha
  · rcases continueFill_eq_next.1 h with ⟨hnone, -⟩ | ⟨q, hq, h⟩
    · rw [hp] at hnone
      cases hnone
    · rw [hp] at hq
      cases hq
      exact fillWrite_keeps_other_bytes hwf h ha

/-- Settles O25: `START` and `STOP` change the pool and the session only, and `DESTROY` finds an idle driver, whose
session fields are already those of reset. -/
theorem lifecycleCommandsFrame : Obligations.LifecycleCommandsFrame := by
  intro i s t hmem h
  obtain ⟨hcfg, hpeers, hinput⟩ := exec_frame h
  refine ⟨hcfg, hpeers, hinput, ?_⟩
  have hi : i = .start ∨ i = .stop ∨ i = .destroy := by simpa using hmem
  rcases hi with rfl | rfl | rfl
  · rw [execStart_frame h]
    exact ⟨rfl, fun _ => ⟨rfl, rfl, rfl, rfl, rfl, rfl, rfl, rfl, rfl, rfl, rfl⟩, nofun⟩
  · rw [execStop_frame h]
    exact ⟨rfl, fun _ => ⟨rfl, rfl, rfl, rfl, rfl, rfl, rfl, rfl, rfl, rfl, rfl⟩, nofun⟩
  · obtain ⟨hfill, -, hidle, rfl⟩ := execDestroy_eq_next.1 h
    refine ⟨hfill.symm, fun hne => absurd rfl hne, fun _ => ⟨rfl, fun hinv => ?_⟩⟩
    obtain ⟨htc, hse⟩ := hinv.idle hidle
    obtain ⟨hh, hv, hhs, hvs⟩ := hinv.disarmed htc
    obtain ⟨hcol, hbusy⟩ := hinv.released hse
    simp [Driver.pins, Driver.claimedPins, htc, hse, hh, hv, hhs, hvs, hcol, hbusy, hidle]

end Sys2Proof.Machine
end

section
/-! The formats (30_encoding.md R92): a field put in its place is read back from it, and the place of another field is
read as 0. -/

namespace Sys2Proof

theorem getLsbD_place {n : Nat} (lo : Nat) (f : BitVec n) (j : Nat) :
    (place lo f).getLsbD j = (decide (j < 32) && decide (lo ≤ j) && f.getLsbD (j - lo)) := by
  rw [place, BitVec.getLsbD_shiftLeft, BitVec.getLsbD_setWidth]
  by_cases hj : j < 32
  · have hlt : j - lo < 32 := by omega
    by_cases hlo : lo ≤ j <;> simp [hj, hlt, hlo]
  · simp [hj]

/-- A field inside the word is read back from its place, bit for bit (R93). -/
theorem extractLsb'_place {n lo : Nat} (h : lo + n ≤ 32) (f : BitVec n) : (place lo f).extractLsb' lo n = f := by
  ext j hj
  have hlt : lo + j < 32 := by omega
  rw [← BitVec.getLsbD_eq_getElem, BitVec.getLsbD_extractLsb', getLsbD_place]
  simp [hj, hlt, BitVec.getLsbD_eq_getElem]

/-- A field puts nothing in the places it does not overlap. -/
theorem extractLsb'_place_apart {n lo n' lo' : Nat} (h : lo' + n' ≤ lo ∨ lo + n ≤ lo') (f : BitVec n) :
    (place lo f).extractLsb' lo' n' = 0#n' := by
  ext j hj
  rw [← BitVec.getLsbD_eq_getElem, BitVec.getLsbD_extractLsb', getLsbD_place]
  rcases h with h | h
  · have hlo : ¬ lo ≤ lo' + j := by omega
    simp [hlo]
  · simp [BitVec.getLsbD_of_ge f (lo' + j - lo) (by omega)]

/-- Masking a word to the place of a field leaves the field it holds there. -/
theorem and_place_allOnes {n lo : Nat} (w : Word) :
    w &&& place lo (BitVec.allOnes n) = place lo (w.extractLsb' lo n) := by
  ext j hj
  rw [← BitVec.getLsbD_eq_getElem, ← BitVec.getLsbD_eq_getElem, BitVec.getLsbD_and, getLsbD_place, getLsbD_place,
    BitVec.getLsbD_allOnes, BitVec.getLsbD_extractLsb']
  by_cases hlo : lo ≤ j
  · simp [hj, hlo, Nat.add_sub_cancel' hlo, Bool.and_comm]
  · simp [hlo]

@[simp] theorem place_zero (n lo : Nat) : place lo 0#n = 0#32 := by simp [place]

end Sys2Proof
end

section
/-! The decoder (30_encoding.md R96): which words a row of the opcode map hits, and everything a word can decode to. -/

namespace Sys2Proof

/-! ## The rows of the opcode map (R94) -/

/-- A row whose mask covers `op` and one must-be-zero field hits a word with the row's `op` and that field 0 (R94, R97).
A row with no must-be-zero field has one of width 0. -/
theorem OpRow.hits_iff {r : OpRow} {lo n : Nat} (hn : lo + n ≤ 28)
    (hmask : r.mask = place 28 (BitVec.allOnes 4) ||| place lo (BitVec.allOnes n))
    (hmatch : r.matchBits = place 28 r.op) (w : Word) :
    r.hits w = true ↔ fieldOp w = r.op ∧ w.extractLsb' lo n = 0#n := by
  have hand : w &&& r.mask = place 28 (fieldOp w) ||| place lo (w.extractLsb' lo n) := by
    rw [hmask, BitVec.and_or_distrib_left, and_place_allOnes, and_place_allOnes, fieldOp]
  rw [OpRow.hits, beq_iff_eq, hand, hmatch]
  constructor
  · intro h
    constructor
    · have hop := congrArg (·.extractLsb' 28 4) h
      simpa only [BitVec.extractLsb'_or, extractLsb'_place (by decide : 28 + 4 ≤ 32), extractLsb'_place_apart (.inr hn),
        BitVec.or_zero] using hop
    · have hzero := congrArg (·.extractLsb' lo n) h
      simpa only [BitVec.extractLsb'_or, extractLsb'_place (by omega : lo + n ≤ 32), extractLsb'_place_apart (.inl hn),
        BitVec.zero_or] using hzero
  · rintro ⟨hop, hzero⟩
    rw [hop, hzero, place_zero, BitVec.or_zero]

theorem rowConstruct_hits {w : Word} : rowConstruct.hits w = true ↔ fieldOp w = 1 ∧ w.extractLsb' 18 6 = 0 :=
  OpRow.hits_iff (by decide) (by decide) (by decide) w
theorem rowDestroy_hits {w : Word} : rowDestroy.hits w = true ↔ fieldOp w = 2 ∧ w.extractLsb' 0 28 = 0 :=
  OpRow.hits_iff (by decide) (by decide) (by decide) w
theorem rowStart_hits {w : Word} : rowStart.hits w = true ↔ fieldOp w = 3 ∧ w.extractLsb' 0 28 = 0 :=
  OpRow.hits_iff (by decide) (by decide) (by decide) w
theorem rowStop_hits {w : Word} : rowStop.hits w = true ↔ fieldOp w = 4 ∧ w.extractLsb' 0 28 = 0 :=
  OpRow.hits_iff (by decide) (by decide) (by decide) w
theorem rowFill_hits {w : Word} : rowFill.hits w = true ↔ fieldOp w = 8 ∧ w.extractLsb' 1 27 = 0 :=
  OpRow.hits_iff (by decide) (by decide) (by decide) w

/-- A row of format P or B has no must-be-zero field. -/
theorem OpRow.hits_iff_op {r : OpRow} (hmask : r.mask = place 28 (BitVec.allOnes 4))
    (hmatch : r.matchBits = place 28 r.op) (w : Word) : r.hits w = true ↔ fieldOp w = r.op := by
  rw [OpRow.hits_iff (lo := 0) (n := 0) (by decide) (by rw [hmask]; decide) hmatch,
    and_iff_left (Subsingleton.elim _ _)]

theorem rowSetPixel_hits {w : Word} : rowSetPixel.hits w = true ↔ fieldOp w = 5 :=
  OpRow.hits_iff_op (by decide) (by decide) w
theorem rowClearPixel_hits {w : Word} : rowClearPixel.hits w = true ↔ fieldOp w = 6 :=
  OpRow.hits_iff_op (by decide) (by decide) w
theorem rowGetPixel_hits {w : Word} : rowGetPixel.hits w = true ↔ fieldOp w = 7 :=
  OpRow.hits_iff_op (by decide) (by decide) w
theorem rowWriteRowByte_hits {w : Word} : rowWriteRowByte.hits w = true ↔ fieldOp w = 9 :=
  OpRow.hits_iff_op (by decide) (by decide) w

/-- Every row of the map is the row of some command. -/
theorem exists_row_eq : ∀ r ∈ opcodeMap, ∃ i : Instr, i.row = r := by
  simp only [opcodeMap, List.forall_mem_cons]
  exact ⟨⟨.construct 0 0 0 0, rfl⟩, ⟨.destroy, rfl⟩, ⟨.start, rfl⟩, ⟨.stop, rfl⟩, ⟨.setPixel 0 0, rfl⟩,
    ⟨.clearPixel 0 0, rfl⟩, ⟨.getPixel 0 0, rfl⟩, ⟨.fill 0, rfl⟩, ⟨.writeRowByte 0 0 0, rfl⟩, nofun⟩

/-- Every encoding hits the command's own row of the map and no other (R94). -/
theorem ownRow (i : Instr) : Laws.OwnRow.Statement i := by
  cases i with
  | construct mode col hs vs => exact Laws.OwnRow.construct mode col hs vs
  | destroy => exact Laws.OwnRow.destroy
  | start => exact Laws.OwnRow.start
  | stop => exact Laws.OwnRow.stop
  | setPixel x y => exact Laws.OwnRow.setPixel x y
  | clearPixel x y => exact Laws.OwnRow.clearPixel x y
  | getPixel x y => exact Laws.OwnRow.getPixel x y
  | fill v => exact Laws.OwnRow.fill v
  | writeRowByte y k d => exact Laws.OwnRow.writeRowByte y k d

theorem encode_hits (i : Instr) : i.row.hits (encode i) = true :=
  (ownRow i).1

theorem row_mem (i : Instr) : i.row ∈ opcodeMap :=
  (ownRow i).2.1

/-! ## What a word decodes to (R96) -/

/-- The command of the same row whose operands are the fields of a word (R92, R93). -/
def Instr.withFields (w : Word) : Instr → Instr
  | .construct _ _ _ _ => .construct (fieldMode w) (fieldColPin w) (fieldHsPin w) (fieldVsPin w)
  | .destroy => .destroy
  | .start => .start
  | .stop => .stop
  | .setPixel _ _ => .setPixel (fieldX w) (fieldY w)
  | .clearPixel _ _ => .clearPixel (fieldX w) (fieldY w)
  | .getPixel _ _ => .getPixel (fieldX w) (fieldY w)
  | .fill _ => .fill (fieldV w)
  | .writeRowByte _ _ _ => .writeRowByte (fieldY w) (fieldK w) (fieldD w)

@[simp] theorem Instr.row_withFields (w : Word) (i : Instr) : (i.withFields w).row = i.row := by cases i <;> rfl

theorem decodeAs_eq_ok {r : OpRow} {w : Word} {i j : Instr} : decodeAs r w i = .ok j ↔ r.hits w = true ∧ i = j := by
  unfold decodeAs
  split <;> simp_all

theorem decodeAs_isError {r : OpRow} {w : Word} {i : Instr} :
    (∃ why, decodeAs r w i = .error why) ↔ ¬ r.hits w = true := by
  unfold decodeAs
  split <;> simp_all

/-- A word that hits a command's row decodes to the command with the word's fields. -/
theorem decode_of_hits {w : Word} {i : Instr} (h : i.row.hits w = true) : decode w = .ok (i.withFields w) := by
  have hop : fieldOp w = i.row.op := Laws.OwnRow.op_of_hits (row_mem i) h
  cases i <;> simp only [decode, hop] <;> exact decodeAs_eq_ok.2 ⟨h, rfl⟩

/-- All that a word can decode to: a command whose row it hits and whose operands are its fields (R96). -/
theorem decode_eq_ok {w : Word} {i : Instr} :
    decode w = .ok i ↔ i.row.hits w = true ∧ i.withFields w = i := by
  constructor
  · intro h
    unfold decode at h
    split_ifs at h <;>
      (obtain ⟨hhit, rfl⟩ := decodeAs_eq_ok.1 h; exact ⟨hhit, rfl⟩)
  · rintro ⟨hhit, hfields⟩
    rw [decode_of_hits hhit, hfields]

/-- A word is reserved when its `op` is unassigned or a must-be-zero bit of its format is set (R97). -/
theorem decode_isError {w : Word} : (∃ why, decode w = .error why) ↔
    (fieldOp w ∈ [0x0#4, 0xA#4, 0xB#4, 0xC#4, 0xD#4, 0xE#4, 0xF#4] ∨
      (fieldOp w = 0x1#4 ∧ w.extractLsb' 18 6 ≠ 0) ∨
      (fieldOp w ∈ [0x2#4, 0x3#4, 0x4#4] ∧ w.extractLsb' 0 28 ≠ 0) ∨
      (fieldOp w = 0x8#4 ∧ w.extractLsb' 1 27 ≠ 0)) := by
  unfold decode
  split_ifs with h1 h2 h3 h4 h5 h6 h7 h8 h9
  · simp [decodeAs_isError, rowConstruct_hits, h1]
  · simp [decodeAs_isError, rowDestroy_hits, h2]
  · simp [decodeAs_isError, rowStart_hits, h3]
  · simp [decodeAs_isError, rowStop_hits, h4]
  · simp [decodeAs_isError, rowSetPixel_hits, h5]
  · simp [decodeAs_isError, rowClearPixel_hits, h6]
  · simp [decodeAs_isError, rowGetPixel_hits, h7]
  · simp [decodeAs_isError, rowFill_hits, h8]
  · simp [decodeAs_isError, rowWriteRowByte_hits, h9]
  · have hop : fieldOp w ∈ [0x0#4, 0xA#4, 0xB#4, 0xC#4, 0xD#4, 0xE#4, 0xF#4] := by
      generalize fieldOp w = op at *
      revert op
      decide
    exact iff_of_true ⟨_, rfl⟩ (.inl hop)

end Sys2Proof
end

section
/-! The encoder and the decoder undo each other (30_encoding.md R92, R93, R96). -/

namespace Sys2Proof

/-- The fields of a command's encoding are its operands: no bit of an operand is lost (R93). -/
theorem withFields_encode (i : Instr) : i.withFields (encode i) = i := by
  cases i <;>
    simp [Instr.withFields, encode, fieldMode, fieldColPin, fieldHsPin, fieldVsPin, fieldX, fieldY, fieldV, fieldK,
      fieldD, BitVec.extractLsb'_or, extractLsb'_place, extractLsb'_place_apart]

/-- The encoding of a word's fields is the word with the bits of the row's mask set as the row matches them: each other
bit lies in exactly one field (R92). -/
theorem encode_withFields (i : Instr) (w : Word) :
    encode (i.withFields w) = i.row.matchBits ||| (w &&& ~~~i.row.mask) := by
  cases i with
  | destroy | start | stop => simp [Instr.withFields, encode, place, Instr.row, rowDestroy, rowStart, rowStop]
  | construct | setPixel | clearPixel | getPixel | fill | writeRowByte =>
    simp only [Instr.withFields, encode, fieldMode, fieldColPin, fieldHsPin, fieldVsPin, fieldX, fieldY, fieldV, fieldK,
      fieldD, Instr.row, ← and_place_allOnes, BitVec.or_assoc, ← BitVec.and_or_distrib_left]
    congr 2

/-- A word that hits a row holds the row's bits under the mask. -/
theorem OpRow.eq_of_hits {r : OpRow} {w : Word} (h : r.hits w = true) : r.matchBits ||| (w &&& ~~~r.mask) = w := by
  have hw : w &&& r.mask = r.matchBits := beq_iff_eq.1 h
  rw [← hw, ← BitVec.and_or_distrib_left, BitVec.or_not_self, BitVec.and_allOnes]

end Sys2Proof
end

section
/-! The command port (30_encoding.md R91): a step whose next event is a command word, at the driver in focus and at a
peer. -/

namespace Sys2Proof.Machine

theorem perform_of_decode {w : Word} {i : Instr} (h : decode w = .ok i) : perform w = exec i := by
  funext s
  rw [perform, h]

theorem perform_of_reserved {w : Word} {why : Reserved} (h : decode w = .error why) (s : State) :
    perform w s = .refused (.reservedWord why) := by
  rw [perform, h]

/-- A step whose next event is a command word performs it at the driver addressed. -/
theorem step_command {s : State} {inst : Nat} {w : Word} {es : List Event}
    (hs : s.input = .act inst (.command w) :: es) :
    step s = atInstance inst (perform w) { s with input := es } := by
  rw [step, advance, hs]
  rfl

theorem atInstance_peer_of_fault {f : State → Result} {s : State} {k : Nat} {d : Driver} {e : Fault}
    (hk : s.peers[k]? = some d) (h : f (s.withSelf d) = .fault e) : atInstance (k + 1) f s = .fault e := by
  simp only [atInstance, hk, h]

theorem atInstance_peer_of_refused {f : State → Result} {s : State} {k : Nat} {d : Driver} {why : Refusal}
    (hk : s.peers[k]? = some d) (h : f (s.withSelf d) = .refused why) : atInstance (k + 1) f s = .refused why := by
  simp only [atInstance, hk, h]

/-- What is refused whoever is in focus is refused at every driver that exists. -/
theorem atInstance_refused {f : State → Result} {why : Refusal} (hf : ∀ s, f s = .refused why) {s : State} {inst : Nat}
    (hinst : inst ≤ s.peers.length) : atInstance inst f s = .refused why := by
  cases inst with
  | zero => exact hf s
  | succ k => exact atInstance_peer_of_refused (List.getElem?_eq_getElem hinst) (hf _)

/-- A reserved word is refused at every driver, and the run goes on after it (R97; 70_reset_and_hazards.md R293). -/
theorem step_reserved {w : Word} {why : Reserved} (hw : decode w = .error why) {s : State} {inst : Nat}
    {es : List Event} (hs : s.input = .act inst (.command w) :: es) (hinst : inst ≤ s.peers.length) :
    step s = .refused (.reservedWord why) ∧ proceed s = .ok { s with input := es } := by
  have hstep : step s = .refused (.reservedWord why) :=
    (step_command hs).trans (atInstance_refused (perform_of_reserved hw) hinst)
  have hgo := proceed_of_refused hstep
  rw [hs] at hgo
  exact ⟨hstep, hgo⟩

theorem tableWord_toNat (w : Word) : tableWord 32 w.toNat = w := by
  rw [tableWord, Nat.mod_eq_of_lt w.isLt, BitVec.ofNat_toNat, BitVec.setWidth_eq]

/-- After an action at a driver, that driver is the one the action left. -/
theorem driverAt_of_atInstance_act {inst : Nat} {a : Action} {s t : State} (h : atInstance inst (act a) s = .next t) :
    ∃ s' u, act a s' = .next u ∧ t.driverAt inst = some u.self := by
  rcases atInstance_eq_next.1 h with ⟨rfl, hu⟩ | ⟨k, d, u, rfl, hk, hu, rfl⟩
  · exact ⟨s, t, hu, rfl⟩
  · obtain ⟨hlt, -⟩ := List.getElem?_eq_some_iff.1 hk
    exact ⟨s.withSelf d, u, hu, List.getElem?_set_self hlt⟩

end Sys2Proof.Machine
end

section
/-! The response a completed command leaves on its port (30_encoding.md R95; 93_implementation_defined.md V9). -/

namespace Sys2Proof.Machine

/-- The port holds a response with data 0, and no `FILL` pass is in progress. -/
def Driver.AnsweredNoData (d : Driver) : Prop := ∃ st, d.rsp = some ⟨st, false⟩ ∧ d.fillNext = none

theorem State.respond_answered {s : State} (hf : s.self.fillNext = none) (st : Status) :
    (s.respond st false).self.AnsweredNoData :=
  ⟨st, rfl, hf⟩

theorem outOfRangeWrite_answered {s t : State} (hf : s.self.fillNext = none) (h : outOfRangeWrite s = .next t) :
    t.self.AnsweredNoData := by
  rcases outOfRangeWrite_eq_next.1 h with ⟨-, rfl⟩ | ⟨-, rfl⟩ <;> exact State.respond_answered hf _

theorem writePixel_answered {b : Bool} {x : BitVec 16} {y : BitVec 12} {s t : State}
    (h : writePixel b x y s = .next t) : t.self.AnsweredNoData := by
  obtain ⟨hf, -, ⟨-, m, -, rfl⟩ | ⟨-, h⟩⟩ := writePixel_eq_next.1 h
  · exact State.respond_answered hf _
  · exact outOfRangeWrite_answered hf h

theorem execWriteRowByte_answered {y : BitVec 12} {k d : BitVec 8} {s t : State}
    (h : execWriteRowByte y k d s = .next t) : t.self.AnsweredNoData := by
  obtain ⟨hf, -, ⟨-, m, -, rfl⟩ | ⟨-, h⟩⟩ := execWriteRowByte_eq_next.1 h
  · exact State.respond_answered hf _
  · exact outOfRangeWrite_answered hf h

/-- `START` answers `OK` or its error, and keeps the `FILL` progress: none (43_driver_lifecycle.md R204). -/
theorem execStart_answered {s t : State} (h : execStart s = .next t) : t.self.AnsweredNoData := by
  have hframe : t.self.fillNext = s.self.fillNext := by rw [execStart_frame h]; rfl
  obtain ⟨hf, -, ⟨-, rfl⟩ | ⟨-, -, h⟩⟩ := execStart_eq_next.1 h
  · exact State.respond_answered hf _
  · rcases startArms_eq_next.1 h with ⟨e, -, rfl⟩ | ⟨P, d, e, -, -, rfl⟩ | ⟨P, d, P', d', -, -, rfl⟩ <;>
      exact ⟨_, rfl, hframe.trans hf⟩

theorem execStop_answered {s t : State} (h : execStop s = .next t) : t.self.AnsweredNoData := by
  have hframe : t.self.fillNext = s.self.fillNext := by rw [execStop_frame h]; rfl
  obtain ⟨hf, -, ⟨-, rfl⟩ | ⟨-, rfl⟩⟩ := execStop_eq_next.1 h <;> exact ⟨_, rfl, hframe.trans hf⟩

/-- What a completed command leaves: inside a `FILL` pass no response, and otherwise one, whose data can be 1 only
from a `GET_PIXEL` that returns `OK` (R95, V9). -/
theorem exec_response {i : Instr} {s t : State} (h : exec i s = .next t) :
    (t.self.rsp = none ∧ t.self.fillNext ≠ none ∧ ∃ v, i = .fill v) ∨
    ∃ st b, t.self.rsp = some ⟨st, b⟩ ∧ t.self.fillNext = none ∧ (b = true → st = .ok ∧ ∃ x y, i = .getPixel x y) := by
  have hnoData : t.self.AnsweredNoData → ∃ st b, t.self.rsp = some ⟨st, b⟩ ∧ t.self.fillNext = none ∧
      (b = true → st = .ok ∧ ∃ x y, i = .getPixel x y) :=
    fun ⟨st, hrsp, hf⟩ => ⟨st, false, hrsp, hf, nofun⟩
  cases i with
  | construct mode col hs vs =>
    obtain ⟨hf, -, -, ⟨-, rfl⟩ | ⟨-, rfl⟩⟩ := execConstruct_eq_next.1 h <;> exact .inr (hnoData ⟨_, rfl, hf⟩)
  | destroy =>
    obtain ⟨-, -, -, rfl⟩ := execDestroy_eq_next.1 h
    exact .inr (hnoData ⟨_, rfl, rfl⟩)
  | start => exact .inr (hnoData (execStart_answered h))
  | stop => exact .inr (hnoData (execStop_answered h))
  | setPixel x y => exact .inr (hnoData (writePixel_answered h))
  | clearPixel x y => exact .inr (hnoData (writePixel_answered h))
  | getPixel x y =>
    obtain ⟨hf, -, ⟨-, b, -, rfl⟩ | ⟨-, rfl⟩⟩ := execGetPixel_eq_next.1 h
    · exact .inr ⟨.ok, b, rfl, hf, fun _ => ⟨rfl, x, y, rfl⟩⟩
    · exact .inr (hnoData (State.respond_answered hf _))
  | fill v =>
    obtain ⟨-, -, h⟩ := execFill_eq_next.1 h
    obtain ⟨-, ⟨-, rfl⟩ | ⟨-, rfl⟩⟩ := fillWrite_eq_next.1 h
    · exact .inl ⟨rfl, nofun, v, rfl⟩
    · exact .inr (hnoData ⟨_, rfl, rfl⟩)
  | writeRowByte y k d => exact .inr (hnoData (execWriteRowByte_answered h))

/-- The response shown at a driver is the one on its port. -/
theorem showResponse_of_driverAt {s : State} {inst : Nat} {d : Driver} (h : s.driverAt inst = some d) :
    showResponse s inst = (d.rsp.map (Observation.response inst)).toList := by
  rw [showResponse, h]
  rfl

end Sys2Proof.Machine
end

section
/-! The pseudo-commands (30_encoding.md R100): the row `WRITE_ROW` writes, and the `START` after the `STOP` of a
`RESTART`. -/

namespace Sys2Proof.Machine

/-- A command that answers `OK` hands over to the commands after it (R100). -/
theorem performAll_cons_of_ok {i : Instr} {is : List Instr} {s t : State} (h : exec i s = .next t) {b : Bool}
    (hok : t.self.rsp = some ⟨.ok, b⟩) : performAll (i :: is) s = performAll is t := by
  have hans : answeredOk t = true := by rw [answeredOk, hok]; rfl
  simp only [performAll, h, hans, if_true]

/-! ## WRITE_ROW -/

/-- A row has at most 128 bytes, so a byte index of it fits the field `k` (00_scope.md R8; 30_encoding.md R92). -/
theorem Config.rowBytes_le {c : Config} (hwf : c.wf = true) : c.rowBytes ≤ 128 := by
  obtain ⟨hsum, -, -, -, -, -, hw, -, -, hH, -⟩ := Config.wf_iff.1 hwf
  unfold Config.rowBytes
  omega

/-- The state `WRITE_ROW_BYTE` of an existing byte leaves (40_framebuffer.md R126). -/
def State.rowByteWritten (s : State) (row k : Nat) (b : Byte) : State :=
  State.respond { s with self := { s.self with fb := s.self.fb.write (rowByteAddress s.cfg row k) b } } .ok false

@[simp] theorem State.rowByteWritten_cfg (s : State) (row k : Nat) (b : Byte) :
    (s.rowByteWritten row k b).cfg = s.cfg := rfl
@[simp] theorem State.rowByteWritten_fb (s : State) (row k : Nat) (b : Byte) :
    (s.rowByteWritten row k b).self.fb = s.self.fb.write (rowByteAddress s.cfg row k) b := rfl

theorem exec_writeRowByte_inRange {s : State} {y : BitVec 12} {k : Nat} (hwf : s.cfg.wf = true)
    (hf : s.self.fillNext = none) (hc : s.self.constructed = true) (hy : y.toNat < s.cfg.height)
    (hk : k < s.cfg.rowBytes) (b : Byte) :
    exec (.writeRowByte y (BitVec.ofNat 8 k) b) s = .next (s.rowByteWritten y.toNat k b) := by
  have hle := Config.rowBytes_le hwf
  have hkn : (BitVec.ofNat 8 k).toNat = k := by rw [BitVec.toNat_ofNat]; exact Nat.mod_eq_of_lt (by omega)
  obtain ⟨-, -, -, -, -, -, -, -, hw, -⟩ := Config.wf_iff.1 hwf
  refine execWriteRowByte_eq_next.2 ⟨hf, hc, .inl ⟨rowByteInRange_iff.2 ⟨hy, by rwa [hkn]⟩, _, ?_, rfl⟩⟩
  rw [hkn]
  exact fbWrite_ok (rowByteAddress_lt hw hy hk)

/-- The writes of a row from index `k` on put each byte at its address and keep every other byte, by induction on the
bytes: the address of one index is that of no other. -/
theorem performAll_rowWrites {y : BitVec 12} {bytes : List Byte} {k : Nat} {s : State} (hwf : s.cfg.wf = true)
    (hf : s.self.fillNext = none) (hc : s.self.constructed = true) (hfb : s.self.fb.wf = true)
    (hy : y.toNat < s.cfg.height) (hk : k + bytes.length ≤ s.cfg.rowBytes) :
    ∃ t, performAll (rowWrites y k bytes) s = .next t ∧
      (∀ j b, bytes[j]? = some b → t.self.fb.read (rowByteAddress s.cfg y.toNat (k + j)) = b) ∧
      ∀ a, (∀ j < bytes.length, a ≠ rowByteAddress s.cfg y.toNat (k + j)) →
        t.self.fb.read a = s.self.fb.read a := by
  induction bytes generalizing k s with
  | nil => exact ⟨s, rfl, nofun, fun _ _ => rfl⟩
  | cons b bs ih =>
    rw [List.length_cons] at hk
    have hrest : k + 1 + bs.length ≤ s.cfg.rowBytes := by omega
    obtain ⟨t, ht, hin, hout⟩ :=
      ih (s := s.rowByteWritten y.toNat k b) hwf hf hc (Memory.wf_write hfb _ b) hy hrest
    simp only [State.rowByteWritten_cfg, State.rowByteWritten_fb, Nat.add_assoc, Nat.add_comm 1] at hin hout
    have hperform := performAll_cons_of_ok (is := rowWrites y (k + 1) bs)
      (exec_writeRowByte_inRange (y := y) (k := k) hwf hf hc hy (by omega) b) rfl
    refine ⟨t, hperform.trans ht, fun j b' hj => ?_, fun a ha => ?_⟩
    · cases j with
      | zero =>
        obtain rfl : b = b' := by simpa using hj
        rw [Nat.add_zero, hout _ fun j _ => by unfold rowByteAddress; omega, Memory.read_write_same hfb]
      | succ j => exact hin j b' hj
    · have hfirst : a ≠ rowByteAddress s.cfg y.toNat k := ha 0 (Nat.succ_pos _)
      rw [hout a fun j hj => ha (j + 1) (Nat.succ_lt_succ hj), Memory.read_write_other hfb b hfirst]

theorem rowByteAddress_mem_rowView {c : Config} {y k : Nat} (hk : k < c.rowBytes) :
    rowByteAddress c y k ∈ rowView c y :=
  List.mem_map_of_mem (List.mem_range.2 hk)

/-! ## RESTART -/

/-- The framebuffer of well-formed parameters is sized for the mode, so `START` passes its step (1)
(43_driver_lifecycle.md R207). -/
theorem frameBufferFits_of_wf {c : Config} (hwf : c.wf = true) : frameBufferFits c = true := by
  obtain ⟨-, -, -, -, -, -, hw, hh, -⟩ := Config.wf_iff.1 hwf
  rw [frameBufferFits, beq_iff_eq, Config.nbytes, hw, hh]

/-- A running driver holds three different pins (60_exceptions.md R254). -/
theorem State.PoolInv.pins_distinct {s : State} (hp : s.PoolInv) (htc : s.self.tcArmed = true)
    (hse : s.self.seArmed = true) :
    s.self.cfgVsPin ≠ s.self.cfgHsPin ∧ s.self.cfgColPin ≠ s.self.cfgHsPin ∧ s.self.cfgColPin ≠ s.self.cfgVsPin := by
  have hself : s.self.claimedPins.Nodup := (List.nodup_append.1 hp.disjoint).1
  have hlist : s.self.claimedPins = [s.self.cfgHsPin, s.self.cfgVsPin, s.self.cfgColPin] := by
    simp [Driver.claimedPins, htc, hse]
  rw [hlist] at hself
  simp only [List.nodup_cons, List.mem_cons, not_or] at hself
  obtain ⟨⟨hhv, hhc, -⟩, ⟨hvc, -⟩, -⟩ := hself
  exact ⟨Ne.symm hhv, Ne.symm hhc, Ne.symm hvc⟩

/-- What a driver needs of the pool, and of its own pins, for both arms of `START` to succeed (41_timing_controller.md
R152; 42_scanout_engine.md R180). -/
structure Pool.FreeFor (P : Pool) (c : Config) (d : Driver) : Prop where
  timing : c.tcChannels ≤ P.freeTiming
  output : c.seChannels ≤ P.freeOutput
  hsPin : d.cfgHsPin ∉ P.pins
  vsPin : d.cfgVsPin ∉ P.pins
  colPin : d.cfgColPin ∉ P.pins
  vs_ne_hs : d.cfgVsPin ≠ d.cfgHsPin
  col_ne_hs : d.cfgColPin ≠ d.cfgHsPin
  col_ne_vs : d.cfgColPin ≠ d.cfgVsPin

/-- The state a successful `START` leaves (43_driver_lifecycle.md R204). -/
def State.started (s : State) : State :=
  { s with
    pool := {
      pins := insertPin s.self.cfgColPin (insertPin s.self.cfgVsPin (insertPin s.self.cfgHsPin s.pool.pins)),
      freeTiming := s.pool.freeTiming - s.cfg.tcChannels, freeOutput := s.pool.freeOutput - s.cfg.seChannels },
    self := { s.self with
      lcState := .running, tcArmed := true, seArmed := true, hcount := 0, vcount := 0, scanBusy := false,
      pinHsync := hsLevel s.cfg 0, pinVsync := vsLevel s.cfg 0, pinColor := colorLevel s.cfg false,
      rsp := some ⟨.ok, false⟩ } }

/-- `START` of an idle driver whose resources are free succeeds. -/
theorem exec_start_of_freeFor {s : State} (hwf : s.cfg.wf = true) (hf : s.self.fillNext = none)
    (hc : s.self.constructed = true) (hidle : s.self.lcState = .idle) (hfree : s.pool.FreeFor s.cfg s.self) :
    exec .start s = .next s.started := by
  have htc := tcArm_eq_ok.2 ⟨hfree.timing, hfree.hsPin, hfree.vsPin, hfree.vs_ne_hs, rfl, rfl⟩
  have hcol : s.self.cfgColPin ∉ insertPin s.self.cfgVsPin (insertPin s.self.cfgHsPin s.pool.pins) := by
    simp only [mem_insertPin, not_or]
    exact ⟨hfree.col_ne_vs, hfree.col_ne_hs, hfree.colPin⟩
  exact execStart_eq_next.2 ⟨hf, hc, .inr ⟨hidle, frameBufferFits_of_wf hwf,
    startArms_eq_next.2 (.inr (.inr ⟨_, _, _, _, htc, seArm_eq_ok.2 ⟨hcol, hfree.output, rfl, rfl⟩, rfl⟩))⟩⟩

/-- The state a `STOP` of a running driver leaves (R208). -/
def State.stopped (s : State) : State :=
  { s with
    pool := {
      pins := removePin s.self.cfgVsPin (removePin s.self.cfgHsPin (removePin s.self.cfgColPin s.pool.pins)),
      freeTiming := s.pool.freeTiming + s.cfg.tcChannels, freeOutput := s.pool.freeOutput + s.cfg.seChannels },
    self := { s.self with
      lcState := .idle, tcArmed := false, seArmed := false, hcount := 0, vcount := 0, scanBusy := false,
      pinHsync := .z, pinVsync := .z, pinColor := .z, rsp := some ⟨.ok, false⟩ } }

theorem exec_stop_of_running {s : State} (hi : s.self.Inv s.cfg) (hf : s.self.fillNext = none)
    (hrun : s.self.lcState = .running) : exec .stop s = .next s.stopped := by
  obtain ⟨htc, hse⟩ := hi.running.1 hrun
  refine execStop_eq_next.2 ⟨hf, hi.constructed_of_running hrun, .inr ⟨hrun, ?_⟩⟩
  rw [stopArms, stopArms_armed htc hse]
  rfl

/-- A `STOP` releases its driver's three pins and no other (R208). -/
theorem mem_stopped_pins {s : State} (hrise : s.pool.pins.Pairwise (· < ·)) {p : Pin} :
    p ∈ s.stopped.pool.pins ↔
      p ∈ s.pool.pins ∧ p ≠ s.self.cfgHsPin ∧ p ≠ s.self.cfgVsPin ∧ p ≠ s.self.cfgColPin := by
  have h₁ := removePin_rising hrise s.self.cfgColPin
  have h₂ := removePin_rising h₁ s.self.cfgHsPin
  simp only [State.stopped, mem_removePin (rising_nodup h₂), mem_removePin (rising_nodup h₁),
    mem_removePin (rising_nodup hrise)]
  tauto

/-- What a `STOP` has just released is free for the same driver's next `START` (43_driver_lifecycle.md R209). -/
theorem stopped_freeFor {s : State} (hi : s.self.Inv s.cfg) (hp : s.PoolInv) (hrun : s.self.lcState = .running) :
    s.stopped.pool.FreeFor s.stopped.cfg s.stopped.self := by
  obtain ⟨htc, hse⟩ := hi.running.1 hrun
  obtain ⟨hvh, hch, hcv⟩ := hp.pins_distinct htc hse
  have released : ∀ {p}, p ∈ s.stopped.pool.pins →
      p ≠ s.self.cfgHsPin ∧ p ≠ s.self.cfgVsPin ∧ p ≠ s.self.cfgColPin := by
    intro p h
    obtain ⟨-, hne⟩ := (mem_stopped_pins hp.rising).1 h
    exact hne
  exact {
    timing := Nat.le_add_left ..
    output := Nat.le_add_left ..
    hsPin := fun h => absurd rfl (released h).1
    vsPin := fun h => absurd rfl (released h).2.1
    colPin := fun h => absurd rfl (released h).2.2
    vs_ne_hs := hvh
    col_ne_hs := hch
    col_ne_vs := hcv }

end Sys2Proof.Machine
end

section
/-! The statements of 30_encoding.md. -/

namespace Sys2Proof.Machine

/-- Settles O4: an encoding hits the command's own row, and its fields are the operands. -/
theorem decodeEncode : Obligations.DecodeEncode :=
  fun i => decode_eq_ok.2 ⟨encode_hits i, withFields_encode i⟩

/-- Settles O2: a row that hits is the row of some command, which decoding fills with the word's fields. -/
theorem wordIsCommandIffRowMatches : Obligations.WordIsCommandIffRowMatches := by
  intro w r hr
  constructor
  · intro hhit
    obtain ⟨i, rfl⟩ := exists_row_eq r hr
    exact ⟨i.withFields w, decode_of_hits hhit, Instr.row_withFields w i⟩
  · rintro ⟨i, hi, rfl⟩
    exact (decode_eq_ok.1 hi).1

/-- Settles O5: the bits under the row's mask are the row's, and every other bit is in a field. -/
theorem encodeDecode : Obligations.EncodeDecode := by
  intro w i h
  obtain ⟨hhit, hfields⟩ := decode_eq_ok.1 h
  calc encode i = encode (i.withFields w) := by rw [hfields]
    _ = i.row.matchBits ||| (w &&& ~~~i.row.mask) := encode_withFields i w
    _ = w := OpRow.eq_of_hits hhit

/-- Settles O3: decoding fails on exactly these words, and the command port refuses a word that does not decode, whoever
is in focus. -/
theorem reservedWordsRefused : Obligations.ReservedWordsRefused :=
  fun _ => ⟨decode_isError.symm, fun _ _ _ hw hs => step_reserved hw hs (Nat.zero_le _),
    fun _ _ _ _ hw hs hk => step_reserved hw hs hk⟩

/-- Settles O6: the step performs the word at the driver addressed, and a word that decodes is performed by running its
command. -/
theorem stepRunsDecodedCommand : Obligations.StepRunsDecodedCommand := by
  refine ⟨fun s w i es hs hw => ?_, fun s k d w i es hs hk hw => ?_, fun s w i hw => ?_⟩
  · rw [step_command hs, perform_of_decode hw]
    rfl
  · rw [step_command hs, perform_of_decode hw]
    exact ⟨fun t ht => atInstance_eq_next.2 (.inr ⟨k, d, t, rfl, hk, ht, rfl⟩),
      fun _ hf => atInstance_peer_of_fault (s := { s with input := es }) hk hf,
      fun _ hr => atInstance_peer_of_refused (s := { s with input := es }) hk hr⟩
  · rw [State.withFetchWord, tableWord_toNat, step_command (s := present w s) rfl, perform_of_decode hw]
    rfl

/-- Settles O58: each command's answer carries its response, and a run shows what stands on the port of the driver
addressed. -/
theorem responseOfEveryCommand : Obligations.ResponseOfEveryCommand := by
  refine ⟨fun i s t => exec_response, fun s inst w es hs => ⟨fun t ht => ?_, fun _ => stepShows_of_refused⟩⟩
  have hact : atInstance inst (act (.command w)) { s with input := es } = .next t := (step_command hs).symm.trans ht
  obtain ⟨s', u, hu, hd⟩ := driverAt_of_atInstance_act hact
  obtain ⟨i, -, hexec⟩ := perform_eq_next.1 hu
  have hshow : stepShows s = (u.self.rsp.map (Observation.response inst)).toList :=
    (stepShows_of_next hs ht).trans (showResponse_of_driverAt hd)
  refine ⟨u.self, hd, ?_⟩
  rcases exec_response hexec with ⟨hrsp, hfill, -⟩ | ⟨st, b, hrsp, hfill, -⟩
  · exact .inl ⟨by rw [hshow, hrsp]; rfl, hfill⟩
  · exact .inr ⟨⟨st, b⟩, by rw [hshow, hrsp]; rfl, hrsp, hfill⟩

/-- Settles O59: the writes from index 0 on reach exactly the row's addresses. -/
theorem writeRowWritesTheRow : Obligations.WriteRowWritesTheRow := by
  intro s y bytes hwf hf hc hfb hlen hy
  have hlen : bytes.length = s.cfg.rowBytes := beq_iff_eq.1 hlen
  obtain ⟨t, ht, hin, hout⟩ := performAll_rowWrites (k := 0) hwf hf hc hfb hy (by omega : 0 + bytes.length ≤ _)
  simp only [Nat.zero_add] at hin hout
  refine ⟨t, ht, hin, fun a ha => hout a fun j hj he => ha ?_⟩
  rw [he]
  exact rowByteAddress_mem_rowView (by omega)

/-- Settles O60: `STOP` frees the three different pins and the channels of the session, so both arms of the `START` find
them free. -/
theorem restartBeginsNewFrame : Obligations.RestartBeginsNewFrame := by
  intro s hinv hpool hf hrun
  obtain ⟨hi, -⟩ := State.driversInv_iff.1 hinv
  have hc := hi.constructed_of_running hrun
  obtain ⟨hwf, -⟩ := hi.mode hc
  have hstop : exec .stop s = .next s.stopped := exec_stop_of_running hi hf hrun
  have hstart : exec .start s.stopped = .next s.stopped.started :=
    exec_start_of_freeFor hwf hf hc rfl (stopped_freeFor hi hpool hrun)
  have hperform : performPseudo .restart s = .next s.stopped.started :=
    (performAll_cons_of_ok hstop rfl).trans (performAll_cons_of_ok hstart rfl)
  exact ⟨_, hperform, rfl, rfl, rfl, rfl, rfl⟩

/-- Settles O1, each word and command by evaluation. -/
theorem workedEncodings : Obligations.WorkedEncodings := by
  unfold Obligations.WorkedEncodings
  decide

end Sys2Proof.Machine
end

section
/-! The FrameBuffer commands (40_framebuffer.md R122 to R126): the state each leaves when its operands are in
range, and what each leaves alone. -/

namespace Sys2Proof.Machine

/-- The state a completed store of one byte leaves: the byte in its place, and the response `OK`. -/
def State.byteWritten (s : State) (a : Nat) (v : Byte) : State :=
  State.respond { s with self := { s.self with fb := s.self.fb.write a v } } .ok false

theorem State.read_byteWritten {s : State} (hwf : s.self.fb.wf = true) (a : Nat) (v : Byte) (x : Nat) :
    (s.byteWritten a v).self.fb.read x = if x = a then v else s.self.fb.read x :=
  Memory.read_write hwf a v x

section InRange

variable {s : State} (hf : s.self.fillNext = none) (hc : s.self.constructed = true)
include hf hc

theorem writePixel_inRange {x : BitVec 16} {y : BitVec 12} (hin : pixelInRange s.cfg x y = true) (b : Bool) :
    writePixel b x y s = .next (s.byteWritten (pixelByte s.cfg y.toNat x.toNat)
      (setByteBit (s.self.fb.read (pixelByte s.cfg y.toNat x.toNat)) (pixelBit s.cfg y.toNat x.toNat) b)) := by
  obtain ⟨hx, hy⟩ := pixelInRange_iff.1 hin
  exact writePixel_eq_next.2 ⟨hf, hc, .inl ⟨hin, _, pixWrite_ok hy hx _ b, rfl⟩⟩

theorem execGetPixel_inRange {x : BitVec 16} {y : BitVec 12} (hin : pixelInRange s.cfg x y = true) :
    execGetPixel x y s = .next (s.respond .ok
      (byteBit (s.self.fb.read (pixelByte s.cfg y.toNat x.toNat)) (pixelBit s.cfg y.toNat x.toNat))) := by
  obtain ⟨hx, hy⟩ := pixelInRange_iff.1 hin
  exact execGetPixel_eq_next.2 ⟨hf, hc, .inl ⟨hin, _, pixRead_ok hy hx _, rfl⟩⟩

/-- A read answers the pixel's bit and no other (R124). -/
theorem execGetPixel_ok_iff {x : BitVec 16} {y : BitVec 12} {b : Bool} (hin : pixelInRange s.cfg x y = true) :
    execGetPixel x y s = .next (s.respond .ok b) ↔
      byteBit (s.self.fb.read (pixelByte s.cfg y.toNat x.toNat)) (pixelBit s.cfg y.toNat x.toNat) = b := by
  rw [execGetPixel_inRange hf hc hin]
  simp [State.respond]

theorem execWriteRowByte_inRange {y : BitVec 12} {k : BitVec 8} (hw : s.cfg.width % 8 = 0)
    (hin : rowByteInRange s.cfg y k = true) (d : BitVec 8) :
    execWriteRowByte y k d s = .next (s.byteWritten (rowByteAddress s.cfg y.toNat k.toNat) d) := by
  obtain ⟨hy, hk⟩ := rowByteInRange_iff.1 hin
  exact execWriteRowByte_eq_next.2 ⟨hf, hc, .inl ⟨hin, _, fbWrite_ok (rowByteAddress_lt hw hy hk), rfl⟩⟩

/-- Both pixel writes complete, and write their pixel's bit and no other (R122, R123). -/
theorem writePixel_completes {x : BitVec 16} {y : BitVec 12} (hwf : s.self.fb.wf = true)
    (hin : pixelInRange s.cfg x y = true) (b : Bool) :
    ∃ t, writePixel b x y s = .next t ∧
      t = { s with self := { s.self with fb := t.self.fb, rsp := some ⟨.ok, false⟩ } } ∧
      ∀ a, t.self.fb.read a =
        if a = pixelByte s.cfg y.toNat x.toNat then setByteBit (s.self.fb.read a) (pixelBit s.cfg y.toNat x.toNat) b
        else s.self.fb.read a := by
  refine ⟨_, writePixel_inRange hf hc hin b, rfl, fun a => ?_⟩
  rw [State.read_byteWritten hwf]
  exact ite_congr rfl (fun ha => by rw [ha]) fun _ => rfl

end InRange

/-! ## What the commands leave alone (R73, R120) -/

theorem writePixel_frame {b : Bool} {x : BitVec 16} {y : BitVec 12} {s t : State} (h : writePixel b x y s = .next t) :
    t = { s with self := { s.self with fb := t.self.fb, rsp := t.self.rsp } } := by
  obtain ⟨-, -, ⟨-, m, -, rfl⟩ | ⟨-, h⟩⟩ := writePixel_eq_next.1 h
  · rfl
  · rw [outOfRangeWrite_frame h]

theorem execGetPixel_frame {x : BitVec 16} {y : BitVec 12} {s t : State} (h : execGetPixel x y s = .next t) :
    t = { s with self := { s.self with rsp := t.self.rsp } } := by
  obtain ⟨-, -, ⟨-, b, -, rfl⟩ | ⟨-, rfl⟩⟩ := execGetPixel_eq_next.1 h <;> rfl

theorem execWriteRowByte_frame {y : BitVec 12} {k d : BitVec 8} {s t : State} (h : execWriteRowByte y k d s = .next t) :
    t = { s with self := { s.self with fb := t.self.fb, rsp := t.self.rsp } } := by
  obtain ⟨-, -, ⟨-, m, -, rfl⟩ | ⟨-, h⟩⟩ := execWriteRowByte_eq_next.1 h
  · rfl
  · rw [outOfRangeWrite_frame h]

end Sys2Proof.Machine
end

section
/-! Which byte and bit a pixel has (20_memory.md R61): no two pixels of the screen share a bit, and the last pixel has
bit 7 of the last byte. -/

namespace Sys2Proof.Machine

theorem pixelIndex_eq (c : Config) (row column : Nat) :
    pixelIndex c row column = 8 * pixelByte c row column + pixelBit c row column :=
  (Nat.div_add_mod _ _).symm

/-- The index of a pixel has its row and its column as quotient and remainder by `W`. -/
theorem pixelIndex_div_mod {c : Config} (row : Nat) {column : Nat} (hc : column < c.width) :
    pixelIndex c row column / c.width = row ∧ pixelIndex c row column % c.width = column :=
  (Nat.div_mod_unique (Nat.zero_lt_of_lt hc)).2 ⟨by rw [pixelIndex]; ring, hc⟩

/-- Pixels with the same byte and bit are the same pixel. -/
theorem pixel_unique {c : Config} {row column row' column' : Nat} (hc : column < c.width) (hc' : column' < c.width)
    (hbyte : pixelByte c row' column' = pixelByte c row column)
    (hbit : pixelBit c row' column' = pixelBit c row column) : row' = row ∧ column' = column := by
  obtain ⟨hr, hk⟩ := pixelIndex_div_mod row hc
  obtain ⟨hr', hk'⟩ := pixelIndex_div_mod row' hc'
  rw [pixelIndex_eq, hbyte, hbit, ← pixelIndex_eq] at hr' hk'
  exact ⟨hr'.symm.trans hr, hk'.symm.trans hk⟩

/-- Two pixels of the screen whose bytes and bits agree have the same coordinates. -/
theorem coordinates_unique {c : Config} {x x' : BitVec 16} {y y' : BitVec 12} (hx : x.toNat < c.width)
    (hx' : x'.toNat < c.width) (hbyte : pixelByte c y'.toNat x'.toNat = pixelByte c y.toNat x.toNat)
    (hbit : pixelBit c y'.toNat x'.toNat = pixelBit c y.toNat x.toNat) : (x', y') = (x, y) := by
  obtain ⟨hy, hx⟩ := pixel_unique hx hx' hbyte hbit
  rw [BitVec.eq_of_toNat_eq hx, BitVec.eq_of_toNat_eq hy]

/-- The last pixel is in the last byte when `W mod 8 = 0`. -/
theorem pixelByte_last {c : Config} (hw : c.width % 8 = 0) {row column : Nat} (hr : row + 1 = c.height)
    (hc : column + 1 = c.width) : pixelByte c row column = c.nbytes - 1 := by
  have hlast : pixelIndex c row column + 1 = c.width * c.height := by
    rw [pixelIndex, ← hr, Nat.add_assoc, hc]
    ring
  have hbytes : c.width * c.height % 8 = 0 := by rw [Nat.mul_mod, hw, Nat.zero_mul]
  unfold pixelByte Config.nbytes
  omega

theorem pixelBit_last {c : Config} (hw : c.width % 8 = 0) (row : Nat) {column : Nat} (hc : column + 1 = c.width) :
    pixelBit c row column = 7 := by
  rw [pixelBit_eq hw]
  omega

end Sys2Proof.Machine
end

section
/-! A `FILL` pass (40_framebuffer.md R125): how far it has come, what each event does to it, and its end whatever
interleaves (10_state.md R47, 20_memory.md R76). -/

namespace Sys2Proof.Machine

/-- The pass has written its first `n` bytes: it goes on at address `n`, or `n` is `NBYTES` and it has answered `OK`. -/
def Driver.FilledTo (c : Config) (v : Bool) (n : Nat) (d : Driver) : Prop :=
  (∀ a < n, d.fb.read a = fillByte v) ∧
    (n < c.nbytes ∧ d.fillNext = some ⟨v, n⟩ ∨ n = c.nbytes ∧ d.fillNext = none ∧ d.rsp = some ⟨.ok, false⟩)

theorem State.DriversInv.self {s : State} (h : s.DriversInv) : s.self.Inv s.cfg :=
  (State.driversInv_iff.1 h).1

/-! ## One action of the driver that fills -/

/-- A byte write of a pass takes it one byte further. -/
theorem fillWrite_filledTo {p : FillPass} {s t : State} (hwf : s.self.fb.wf = true)
    (hbelow : ∀ a < p.next, s.self.fb.read a = fillByte p.value) (h : fillWrite p s = .next t) :
    t.self.FilledTo s.cfg p.value (p.next + 1) := by
  refine ⟨fun a ha => ?_, ?_⟩
  · rw [fillWrite_fb h, Memory.read_write hwf]
    split
    · rfl
    · exact hbelow a (by omega)
  · obtain ⟨hlt, ⟨hmore, rfl⟩ | ⟨hlast, rfl⟩⟩ := fillWrite_eq_next.1 h
    · exact .inl ⟨hmore, rfl⟩
    · exact .inr ⟨by omega, rfl, rfl⟩

/-- A byte write at an address that exists completes. -/
theorem fillWrite_isNext {p : FillPass} {s : State} (h : p.next < s.cfg.nbytes) : ∃ t, fillWrite p s = .next t := by
  rcases Nat.lt_or_ge (p.next + 1) s.cfg.nbytes with hmore | hlast
  · exact ⟨_, fillWrite_eq_next.2 ⟨h, .inl ⟨hmore, rfl⟩⟩⟩
  · exact ⟨_, fillWrite_eq_next.2 ⟨h, .inr ⟨hlast, rfl⟩⟩⟩

/-- No command completes inside the driver's own pass (R47). -/
theorem fillNext_of_exec {i : Instr} {s t : State} (h : exec i s = .next t) : s.self.fillNext = none := by
  cases i with
  | construct mode col hs vs => exact (execConstruct_eq_next.1 h).1
  | destroy => exact (execDestroy_eq_next.1 h).1
  | start => exact (execStart_eq_next.1 h).1
  | stop => exact (execStop_eq_next.1 h).1
  | setPixel x y => exact (writePixel_eq_next.1 h).1
  | clearPixel x y => exact (writePixel_eq_next.1 h).1
  | getPixel x y => exact (execGetPixel_eq_next.1 h).1
  | fill v => exact (execFill_eq_next.1 h).1
  | writeRowByte y k d => exact (execWriteRowByte_eq_next.1 h).1

theorem tick_filledTo {c : Config} {v : Bool} {k n : Nat} {d d' : Driver} (hd : d.FilledTo c v n)
    (h : tick c k d = .ok d') : d'.FilledTo c v n := by
  rw [tick_frame h]
  exact hd

/-- A TICK leaves the pass where it is, and no command completes while the pass goes on. -/
theorem act_filledTo {a : Action} {v : Bool} {n : Nat} {s t : State} (hs : s.self.FilledTo s.cfg v n)
    (hwrite : a ≠ .fillWrite) (hcmd : ∀ w, a = .command w → n < s.cfg.nbytes) (h : act a s = .next t) :
    t.self.FilledTo s.cfg v n := by
  cases a with
  | fillWrite => exact absurd rfl hwrite
  | command w =>
    have hlt := hcmd w rfl
    obtain ⟨i, -, hexec⟩ := perform_eq_next.1 h
    obtain ⟨-, ⟨-, hpass⟩ | ⟨hend, -⟩⟩ := hs
    · rw [fillNext_of_exec hexec] at hpass
      cases hpass
    · omega
  | tick =>
    obtain ⟨d, hd, rfl⟩ := tickSelf_eq_next.1 h
    exact tick_filledTo hs hd

/-! ## One event -/

theorem proceed_cfg {s t : State} (h : proceed s = .ok t) : t.cfg = s.cfg := by
  rcases proceed_eq_ok.1 h with h | ⟨why, -, rfl⟩
  · exact (step_cfg_length h).1
  · rfl

/-- A scheduled event leaves the driver in focus alone, unless it is device reset or an action of this driver that
completes. -/
theorem proceed_self {s t : State} {e : Event} {es : List Event} (hs : s.input = e :: es) (h : proceed s = .ok t) :
    e = .reset ∨ t.self = s.self ∨ ∃ a, e = .act 0 a ∧ act a { s with input := es } = .next t := by
  rcases proceed_eq_ok.1 h with h | ⟨why, -, rfl⟩
  · rcases step_eq_next.1 h with ⟨hnil, -⟩ | ⟨inst, a, es', hs', h⟩ | ⟨es', hs', -⟩
    · rw [hs] at hnil
      cases hnil
    · rw [hs] at hs'
      cases hs'
      rcases atInstance_eq_next.1 h with ⟨rfl, hact⟩ | ⟨k, d, u, -, -, -, rfl⟩
      · exact .inr (.inr ⟨a, rfl, hact⟩)
      · exact .inr (.inl rfl)
    · rw [hs] at hs'
      cases hs'
      exact .inl rfl
  · exact .inr (.inl rfl)

/-- The event of the driver's next byte write takes its pass one byte further. -/
theorem proceed_fillWrite_filledTo {s : State} {es : List Event} {v : Bool} {n : Nat}
    (hs : s.input = .act 0 .fillWrite :: es) (hwf : s.self.fb.wf = true) (hfill : s.self.FilledTo s.cfg v n)
    (hn : n < s.cfg.nbytes) : ∃ t, proceed s = .ok t ∧ t.self.FilledTo s.cfg v (n + 1) := by
  obtain ⟨hbelow, ⟨-, hpass⟩ | ⟨hend, -⟩⟩ := hfill
  · obtain ⟨t, ht⟩ := fillWrite_isNext (p := ⟨v, n⟩) (s := { s with input := es }) hn
    have hstep : step s = .next t := step_eq_next.2 (.inr (.inl
      ⟨0, .fillWrite, es, hs, continueFill_eq_next.2 (.inr ⟨_, hpass, ht⟩)⟩))
    exact ⟨t, proceed_eq_ok.2 (.inl hstep), fillWrite_filledTo (s := { s with input := es }) hwf hbelow ht⟩
  · omega

/-- Every event but the driver's own byte write and device reset leaves its pass where it is. -/
theorem proceed_other_filledTo {s : State} {e : Event} {es : List Event} {v : Bool} {n : Nat} (hinv : s.DriversInv)
    (hs : s.input = e :: es) (hreset : e ≠ .reset) (hwrite : e ≠ .act 0 .fillWrite)
    (hcmd : ∀ w, e = .act 0 (.command w) → n < s.cfg.nbytes) (hfill : s.self.FilledTo s.cfg v n) :
    ∃ t, proceed s = .ok t ∧ t.self.FilledTo s.cfg v n := by
  obtain ⟨t, ht⟩ := proceed_isOk (step_noFault hinv)
  refine ⟨t, ht, ?_⟩
  rcases proceed_self hs ht with he | hself | ⟨a, rfl, hact⟩
  · exact absurd he hreset
  · rw [hself]
    exact hfill
  · exact act_filledTo (s := { s with input := es }) hfill (fun ha => hwrite (by rw [ha]))
      (fun w hw => hcmd w (by rw [hw])) hact

/-! ## A schedule -/

/-- A pass comes through a schedule without device reset as far as the schedule has byte writes for it, by induction on
the events; a command to the driver may stand where the pass has not ended. -/
theorem exists_run_filledTo {c : Config} {ds rest : List Event} {s : State} {v : Bool} {n : Nat} (hinv : s.DriversInv)
    (hc : s.cfg = c) (hs : s.input = ds ++ rest) (hreset : .reset ∉ ds)
    (hcmd : n + ds.count (.act 0 .fillWrite) < c.nbytes ∨ ∀ w, .act 0 (.command w) ∉ ds)
    (hroom : n + ds.count (.act 0 .fillWrite) ≤ c.nbytes) (hfill : s.self.FilledTo c v n) :
    ∃ t : State, t.DriversInv ∧ t.cfg = c ∧ t.input = rest ∧
      t.self.FilledTo c v (n + ds.count (.act 0 .fillWrite)) ∧ ∀ u, runInput t = .ok u → runInput s = .ok u := by
  induction ds generalizing s n with
  | nil => exact ⟨s, hinv, hc, hs, hfill, fun _ hu => hu⟩
  | cons e ds ih =>
    rw [List.mem_cons, not_or] at hreset
    have hone : ∃ t, proceed s = .ok t ∧ t.self.FilledTo c v (n + [e].count (.act 0 .fillWrite)) := by
      subst hc
      by_cases he : e = .act 0 .fillWrite
      · subst he
        rw [List.count_cons_self] at hroom
        exact proceed_fillWrite_filledTo hs hinv.self.memory.1 hfill (by omega)
      · rw [List.count_singleton, if_neg (by simpa using he)]
        refine proceed_other_filledTo hinv hs (Ne.symm hreset.1) he (fun w hw => ?_) hfill
        rcases hcmd with hlt | hno
        · omega
        · exact absurd (hw ▸ List.mem_cons_self) (hno w)
    obtain ⟨s₁, hstep, hfill₁⟩ := hone
    have hinput : s₁.input = ds ++ rest := by rw [proceed_input hstep, hs]; rfl
    have hcount : n + (e :: ds).count (.act 0 .fillWrite) =
        n + [e].count (.act 0 .fillWrite) + ds.count (.act 0 .fillWrite) := by
      rw [← List.singleton_append, List.count_append, Nat.add_assoc]
    rw [hcount] at hcmd hroom ⊢
    obtain ⟨t, hinvt, hct, hinputt, hfillt, hrun⟩ := ih (proceed_driversInv hinv hstep)
      ((proceed_cfg hstep).trans hc) hinput hreset.2
      (hcmd.imp_right fun hno w hw => hno w (List.mem_cons_of_mem _ hw)) hroom hfill₁
    exact ⟨t, hinvt, hct, hinputt, hfillt, fun u hu => (runInput_cons hs).2 ⟨s₁, hstep, hinput, hrun u hu⟩⟩

/-! ## The whole pass -/

theorem exec_driversInv {i : Instr} {s t : State} (hs : s.DriversInv) (h : exec i s = .next t) : t.DriversInv := by
  obtain ⟨hself, hpeers⟩ := State.driversInv_iff.1 hs
  obtain ⟨hcfg, hp, -⟩ := exec_frame h
  rw [State.driversInv_iff, hcfg, hp]
  exact ⟨exec_inv hself h, hpeers⟩

/-- The command of a `FILL` writes the first byte of its pass. -/
theorem execFill_filledTo {v : BitVec 1} {s t : State} (hwf : s.self.fb.wf = true) (h : execFill v s = .next t) :
    t.self.FilledTo s.cfg (v == 1) 1 := by
  obtain ⟨-, -, h⟩ := execFill_eq_next.1 h
  exact fillWrite_filledTo hwf (fun a ha => absurd ha (Nat.not_lt_zero a)) h

theorem fillByte_beq (v : BitVec 1) : fillByte (v == 1) = if v = 1 then 0xFF else 0x00 := by
  simp [fillByte]

/-- A `FILL` ends with every byte written and the response `OK`, whatever events fall between its byte writes, short of
device reset: `ds` ends inside the pass and may hold commands to the driver, `es` holds none and ends with the pass. -/
theorem runInput_fill {s t : State} {v : BitVec 1} {ds es : List Event} (hinv : s.DriversInv)
    (h : exec (.fill v) s = .next t) (hds : .reset ∉ ds)
    (hinside : ds = [] ∨ ds.count (.act 0 .fillWrite) + 1 < s.cfg.nbytes) (hes : .reset ∉ es)
    (hcmd : ∀ w, .act 0 (.command w) ∉ es) (hcount : (ds ++ es).count (.act 0 .fillWrite) + 1 = s.cfg.nbytes) :
    ∃ u, runInput { t with input := ds ++ es } = .ok u ∧ u.DriversInv ∧ u.cfg = s.cfg ∧
      u.self.FilledTo s.cfg (v == 1) s.cfg.nbytes := by
  obtain ⟨hcfg, -, -⟩ := exec_frame h
  have hstart : t.self.FilledTo s.cfg (v == 1) 1 := execFill_filledTo hinv.self.memory.1 h
  rw [List.count_append] at hcount
  obtain ⟨r, hinvr, hcfgr, hinputr, hfillr, hrunr⟩ := exists_run_filledTo (s := { t with input := ds ++ es })
    ((exec_driversInv hinv h).withInput _) hcfg rfl hds
    (hinside.symm.imp (fun hlt => by omega) fun hnil w => by simp [hnil]) (by omega) hstart
  obtain ⟨u, hinvu, hcfgu, hinputu, hfillu, hrunu⟩ := exists_run_filledTo (rest := []) hinvr hcfgr
    (by rw [hinputr, List.append_nil]) hes (.inr hcmd) (by omega) hfillr
  refine ⟨u, hrunr u (hrunu u (runInput_nil hinputu)), hinvu, hcfgu, ?_⟩
  rwa [show s.cfg.nbytes = 1 + ds.count (.act 0 .fillWrite) + es.count (.act 0 .fillWrite) by omega]

end Sys2Proof.Machine
end

section
/-! The statements of 40_framebuffer.md. -/

namespace Sys2Proof.Machine

/-- Settles O26: a pixel write of 1. -/
theorem setPixelCompletes : Obligations.SetPixelCompletes :=
  fun _ _ _ hf hc hwf hx hy => writePixel_completes hf hc hwf (pixelInRange_iff.2 ⟨hx, hy⟩) true

/-- Settles O27: a pixel write of 0. -/
theorem clearPixelCompletes : Obligations.ClearPixelCompletes :=
  fun _ _ _ hf hc hwf hx hy => writePixel_completes hf hc hwf (pixelInRange_iff.2 ⟨hx, hy⟩) false

/-- Settles O28: the read answers the pixel's bit. -/
theorem getPixelCompletes : Obligations.GetPixelCompletes :=
  fun _ _ _ hf hc hx hy => execGetPixel_inRange hf hc (pixelInRange_iff.2 ⟨hx, hy⟩)

/-- Settles O29: column `8k + j` of a row is bit `j` of its byte `k`, the byte just written. -/
theorem writeRowByteCompletes : Obligations.WriteRowByteCompletes := by
  intro s y k d hf hc hwf hw hy hk
  have hread := State.read_byteWritten hwf (rowByteAddress s.cfg y.toNat k.toNat) d
  refine ⟨_, execWriteRowByte_inRange hf hc hw (rowByteInRange_iff.2 ⟨hy, hk⟩) d, rfl, hread, fun j hj => ?_⟩
  have hcol : 8 * k.toNat + j < s.cfg.width := by omega
  have hbyte : (8 * k.toNat + j) / 8 = k.toNat := by omega
  have hbit : (8 * k.toNat + j) % 8 = j := by omega
  refine (pixRead_ok (c := s.cfg) hy hcol _).trans ?_
  rw [pixelByte_eq hw, pixelBit_eq hw, hbyte, hbit, hread, if_pos rfl]
  rfl

/-- Settles O30: the command's step is the byte write at address 0, which is the last one of a buffer of one byte. -/
theorem fillBegins : Obligations.FillBegins := by
  intro s v hf hc hwf hpos
  obtain ⟨t, ht⟩ := fillWrite_isNext (p := ⟨v == 1, 0⟩) hpos
  refine ⟨t, execFill_eq_next.2 ⟨hf, hc, ht⟩, fillWrite_frame ht, fun a => ?_, ?_⟩
  · rw [fillWrite_fb ht, Memory.read_write hwf, fillByte_beq]
  · obtain ⟨-, ⟨hmore, rfl⟩ | ⟨hlast, rfl⟩⟩ := fillWrite_eq_next.1 ht
    · exact ⟨fun _ => ⟨rfl, rfl⟩, fun hone => by simp only at hmore; omega⟩
    · exact ⟨fun hmore => by simp only at hlast; omega, fun _ => ⟨rfl, rfl⟩⟩

/-- Settles O31, by induction on the events: each byte write for this driver takes its pass one byte further, and every
other event leaves the pass where it is. -/
theorem fillCompletesUnderAnyInterleaving : Obligations.FillCompletesUnderAnyInterleaving := by
  intro s t v ds es hinv h hds hinside hes hcmd hcount
  obtain ⟨u, hu, -, -, hbytes, ⟨hlt, -⟩ | ⟨-, hfill, hrsp⟩⟩ := runInput_fill hinv h hds hinside hes hcmd hcount
  · exact absurd hlt (Nat.lt_irrefl _)
  · exact ⟨u, hu, fun a ha => (hbytes a ha).trans (fillByte_beq v), hfill, hrsp⟩

/-- Settles O32: after the pass every byte below `NBYTES` reads 0, and so does every address above; a canonical memory
that reads 0 everywhere is the empty one `CONSTRUCT` leaves. -/
theorem fillOffRestoresConstructedBuffer : Obligations.FillOffRestoresConstructedBuffer := by
  intro s t u s' t' mode col hs vs hinv hfill hrun hcon hok
  obtain ⟨-, -, hfirst⟩ := execFill_eq_next.1 hfill
  have hpos : 0 < s.cfg.nbytes := (fillWrite_eq_next.1 hfirst).1
  obtain ⟨u', hrun', hinvu, hcfg, hbytes, -⟩ := runInput_fill (ds := []) hinv hfill List.not_mem_nil (.inl rfl)
    (es := List.replicate (s.cfg.nbytes - 1) (.act 0 .fillWrite)) (by simp) (by simp)
    (by rw [List.nil_append, List.count_replicate_self]; omega)
  obtain rfl : u' = u := Except.ok.inj (hrun'.symm.trans hrun)
  have hclear : u'.self.fb = [] := Memory.ext hinvu.self.memory.1 rfl fun a => by
    rcases Nat.lt_or_ge a s.cfg.nbytes with ha | ha
    · exact hbytes a ha
    · exact Memory.read_of_below hinvu.self.memory.2 (hcfg ▸ ha)
  obtain ⟨-, -, -, ⟨-, rfl⟩ | ⟨-, rfl⟩⟩ := execConstruct_eq_next.1 hcon
  · exact hclear
  · cases hok

/-- Settles O33: a pixel write changes the bit of its pixel only, and no two pixels share a bit. -/
theorem setThenGetReturnsOn : Obligations.SetThenGetReturnsOn := by
  intro s t x y hinv hin h
  obtain ⟨hf, hc, ⟨-, m, hm, ht⟩ | ⟨hout, -⟩⟩ := writePixel_eq_next.1 h
  · have hbit := byteBit_read_of_pixWrite hinv.memory.1 hm
    have hafter : ∀ {x' y' b}, pixelInRange s.cfg x' y' = true →
        (execGetPixel x' y' t = .next (t.respond .ok b) ↔
          byteBit (m.read (pixelByte s.cfg y'.toNat x'.toNat)) (pixelBit s.cfg y'.toNat x'.toNat) = b) := by
      subst ht
      exact fun hin' => execGetPixel_ok_iff (by exact hf) (by exact hc) hin'
    refine ⟨(hafter hin).2 ((hbit _ _).trans (if_pos ⟨rfl, rfl⟩)), fun x' y' b hin' hne hget => (hafter hin').2 ?_⟩
    have hother : ¬ (pixelByte s.cfg y'.toNat x'.toNat = pixelByte s.cfg y.toNat x.toNat ∧
        pixelBit s.cfg y'.toNat x'.toNat = pixelBit s.cfg y.toNat x.toNat) := fun ⟨hbyte, hb⟩ =>
      hne (coordinates_unique (pixelInRange_iff.1 hin).1 (pixelInRange_iff.1 hin').1 hbyte hb)
    rw [hbit, if_neg hother]
    exact (execGetPixel_ok_iff hf hc hin').1 hget
  · rw [hin] at hout
    cases hout

/-- Settles O34: the first pixel is bit 0 of byte 0 and the last one bit 7 of the last byte, which is another byte. -/
theorem extremePixelsSetOnlyTheirBits : Obligations.ExtremePixelsSetOnlyTheirBits := by
  intro s t u x y hwf hsize hclear hx hy h₁ h₂
  obtain ⟨-, -, -, -, -, -, -, -, hw, -⟩ := Config.wf_iff.1 hwf
  have hin₁ : pixelInRange s.cfg 0 0 = true :=
    pixelInRange_iff.2 ⟨hx ▸ Nat.succ_pos x.toNat, hy ▸ Nat.succ_pos y.toNat⟩
  have hin₂ : pixelInRange s.cfg x y = true := pixelInRange_iff.2 ⟨by omega, by omega⟩
  have hlast : 0 < s.cfg.nbytes - 1 := by unfold Config.nbytes; omega
  obtain ⟨hcfg, -, -⟩ := exec_frame h₁
  have hfirst : t.self.fb = [(0, 0x01)] := by
    rw [writePixel_fb h₁, if_pos hin₁, hclear]
    simp [pixelByte, pixelBit, pixelIndex, setByteBit]
  rw [writePixel_fb h₂, hcfg, if_pos hin₂, pixelByte_last hw hy hx, pixelBit_last hw _ hx, hfirst,
    Memory.read_cons_other (Nat.ne_of_lt hlast), Memory.read_nil, Memory.write, if_neg (by omega), if_neg (by omega),
    Memory.write_nil, if_neg (by decide)]
  rfl

/-- Settles O36: a command completes with its store and its response, and each byte write of a pass with the next
address. -/
theorem frameBufferCommandsFrame : Obligations.FrameBufferCommandsFrame := by
  refine ⟨fun i s t hi h => ?_, fun s t x y h => ?_, fun s t p hp h => ?_⟩
  · rcases hi with ⟨x, y, rfl⟩ | ⟨x, y, rfl⟩ | ⟨x, y, rfl⟩ | ⟨v, rfl⟩ | ⟨y, k, d, rfl⟩
    · rw [writePixel_frame h]; exact ⟨rfl, fun _ => rfl⟩
    · rw [writePixel_frame h]; exact ⟨rfl, fun _ => rfl⟩
    · rw [execGetPixel_frame h]; exact ⟨rfl, fun _ => rfl⟩
    · obtain ⟨-, -, h⟩ := execFill_eq_next.1 h
      exact ⟨fillWrite_frame h, fun hne => absurd rfl (hne v)⟩
    · rw [execWriteRowByte_frame h]; exact ⟨rfl, fun _ => rfl⟩
  · rw [execGetPixel_frame h]
  · obtain ⟨hnone, -⟩ | ⟨p', hp', h⟩ := continueFill_eq_next.1 h
    · rw [hp] at hnone
      cases hnone
    · obtain rfl : p' = p := Option.some.inj (hp'.symm.trans hp)
      refine ⟨fillWrite_frame h, fun q hq => ?_⟩
      obtain ⟨-, ⟨-, rfl⟩ | ⟨-, rfl⟩⟩ := fillWrite_eq_next.1 h
      · exact (Option.some.inj hq).symm
      · cases hq

end Sys2Proof.Machine
end

section
/-! The position of the beam (41_timing_controller.md R144, R145, R147; 10_state.md R32): what a TICK of an armed driver
does to the counters and the sync pins, and the position as one number. -/

namespace Sys2Proof.Machine

/-! ## One TICK -/

theorem tick_of_disarmed {c : Config} {d : Driver} (htc : d.tcArmed = false) (n : Nat) : tick c n d = .ok d :=
  tick_eq_ok.2 (.inl ⟨htc, rfl⟩)

/-- While armed, a TICK puts the counters and the sync pins at the next position, whatever the ScanoutEngine does in it
(R147, R157). -/
theorem tick_timing_of_armed {c : Config} {n : Nat} {d d' : Driver} (htc : d.tcArmed = true)
    (h : tick c n d = .ok d') :
    d'.hcount = (advancePosition c d).hcount ∧ d'.vcount = (advancePosition c d).vcount ∧
    d'.pinHsync = (advancePosition c d).pinHsync ∧ d'.pinVsync = (advancePosition c d).pinVsync := by
  rcases tick_eq_ok.1 h with ⟨hoff, -⟩ | ⟨-, -, rfl⟩ | ⟨-, -, hse⟩
  · rw [htc] at hoff
    cases hoff
  · exact ⟨rfl, rfl, rfl, rfl⟩
  · rw [seTick_frame hse]
    exact ⟨rfl, rfl, rfl, rfl⟩

/-- The next position depends on the counters only (R147). -/
theorem advancePosition_timing_congr {c : Config} {d e : Driver} (hh : e.hcount = d.hcount)
    (hv : e.vcount = d.vcount) :
    (advancePosition c e).hcount = (advancePosition c d).hcount ∧
    (advancePosition c e).vcount = (advancePosition c d).vcount ∧
    (advancePosition c e).pinHsync = (advancePosition c d).pinHsync ∧
    (advancePosition c e).pinVsync = (advancePosition c d).pinVsync := by
  simp only [advancePosition, hh, hv, and_self]

/-! ## The linear position -/

/-- An armed driver is constructed, so its parameters are those of R8. -/
theorem Driver.Inv.wf_of_tcArmed {c : Config} {d : Driver} (h : d.Inv c) (htc : d.tcArmed = true) : c.wf = true :=
  (h.mode (h.constructed_of_tcArmed htc)).1

/-- A position inside the frame determines both counters (R32). -/
theorem Driver.counters_of_position {c : Config} {d : Driver} (hh : d.hcount.toNat < c.hTotal) :
    d.hcount.toNat = d.position c % c.hTotal ∧ d.vcount.toNat = d.position c / c.hTotal := by
  have hpos : 0 < c.hTotal := Nat.zero_lt_of_lt hh
  rw [Driver.position]
  exact ⟨(Nat.mul_add_mod_of_lt hh).symm, by
    rw [Nat.add_comm, Nat.add_mul_div_right _ _ hpos, Nat.div_eq_of_lt hh, Nat.zero_add]⟩

/-- The position stays inside the frame (R30, R31). -/
theorem Driver.position_lt {c : Config} {d : Driver} (hh : d.hcount.toNat < c.hTotal)
    (hv : d.vcount.toNat < c.vTotal) : d.position c < c.framePeriods := by
  calc d.vcount.toNat * c.hTotal + d.hcount.toNat < d.vcount.toNat * c.hTotal + c.hTotal := by omega
    _ = c.hTotal * (d.vcount.toNat + 1) := by ring
    _ ≤ c.hTotal * c.vTotal := Nat.mul_le_mul_left _ hv

/-- The next position is one further, or the frame ends and it is 0: inside a line `hcount` counts, at the end of a line
`vcount` counts, and at the end of the last line both wrap (R147). -/
theorem advancePosition_position_cases {c : Config} {d : Driver} (hwf : c.wf = true)
    (hh : d.hcount.toNat < c.hTotal) (hv : d.vcount.toNat < c.vTotal) :
    (advancePosition c d).position c = d.position c + 1 ∨
    (advancePosition c d).position c = 0 ∧ d.position c + 1 = c.framePeriods := by
  obtain ⟨-, -, -, -, -, -, -, -, -, hH, hV, -⟩ := Config.wf_iff.1 hwf
  rw [Driver.position, Driver.position, advancePosition_hcount hH hh, advancePosition_vcount hV hv,
    Config.framePeriods]
  by_cases hline : d.hcount.toNat = c.hTotal - 1
  · have hwrap : d.vcount.toNat * c.hTotal + d.hcount.toNat + 1 = c.hTotal * (d.vcount.toNat + 1) := by
      rw [Nat.mul_comm, Nat.mul_succ]
      omega
    rw [if_pos hline, if_pos hline, hwrap]
    by_cases hframe : d.vcount.toNat = c.vTotal - 1
    · exact .inr ⟨by rw [if_pos hframe, Nat.zero_mul], congrArg (c.hTotal * ·) (by omega)⟩
    · exact .inl (by rw [if_neg hframe, Nat.add_zero, Nat.mul_comm])
  · exact .inl (by rw [if_neg hline, if_neg hline, Nat.add_assoc])

/-- A TICK advances the position by one, modulo the frame (R147). -/
theorem advancePosition_position {c : Config} {d : Driver} (hwf : c.wf = true) (hh : d.hcount.toNat < c.hTotal)
    (hv : d.vcount.toNat < c.vTotal) :
    (advancePosition c d).position c = (d.position c + 1) % c.framePeriods := by
  obtain ⟨hh', hv'⟩ := advancePosition_inFrame hwf hh hv
  have hlt := Driver.position_lt hh' hv'
  rcases advancePosition_position_cases hwf hh hv with hnext | ⟨hzero, hend⟩
  · rw [hnext] at hlt ⊢
    exact (Nat.mod_eq_of_lt hlt).symm
  · rw [hzero, hend, Nat.mod_self]

end Sys2Proof.Machine
end

section
/-! What reaches the counters of an armed driver: its own TICKs, its own `STOP` and device reset, and no other event
(41_timing_controller.md R156; 70_reset_and_hazards.md R292). -/

namespace Sys2Proof.Machine

/-! ## One event -/

/-- While a driver is running, every command of its host but `STOP` stays inside the framebuffer, the `FILL` progress
and the response: the lifecycle commands find it running and change nothing else (43_driver_lifecycle.md R201, R235). -/
theorem exec_frame_of_running {i : Instr} {s t : State} (hc : s.self.constructed = true)
    (hrun : s.self.lcState = .running) (hne : i ≠ .stop) (h : exec i s = .next t) :
    t = { s with self := { s.self with fb := t.self.fb, fillNext := t.self.fillNext, rsp := t.self.rsp } } := by
  cases i with
  | construct mode col hs vs =>
    obtain ⟨-, hu, -⟩ := execConstruct_eq_next.1 h
    rw [hc] at hu
    cases hu
  | destroy =>
    obtain ⟨-, -, hidle, -⟩ := execDestroy_eq_next.1 h
    rw [hrun] at hidle
    cases hidle
  | start =>
    obtain ⟨-, -, ⟨-, rfl⟩ | ⟨hidle, -⟩⟩ := execStart_eq_next.1 h
    · rfl
    · rw [hrun] at hidle
      cases hidle
  | stop => exact absurd rfl hne
  | setPixel x y => rw [writePixel_frame h]
  | clearPixel x y => rw [writePixel_frame h]
  | getPixel x y => rw [execGetPixel_frame h]
  | fill v =>
    obtain ⟨-, -, h⟩ := execFill_eq_next.1 h
    exact fillWrite_frame h
  | writeRowByte y k d => rw [execWriteRowByte_frame h]

/-- The TimingController is armed, and the beam is where it is `p` periods after the beginning of a frame (R32). -/
def Driver.BeamAt (c : Config) (p : Nat) (d : Driver) : Prop :=
  d.tcArmed = true ∧ d.position c = p % c.framePeriods

theorem Driver.Inv.beamAt_position {c : Config} {d : Driver} (hi : d.Inv c) (htc : d.tcArmed = true) :
    d.BeamAt c (d.position c) := by
  obtain ⟨hh, hv, -⟩ := hi.armed htc
  exact ⟨htc, (Nat.mod_eq_of_lt (Driver.position_lt hh hv)).symm⟩

/-- The counters of a driver whose beam is `p` periods after the beginning of a frame (R32). -/
theorem Driver.BeamAt.counters {c : Config} {p : Nat} {d : Driver} (hi : d.Inv c) (h : d.BeamAt c p) :
    d.hcount.toNat = p % c.hTotal ∧ d.vcount.toNat = p / c.hTotal % c.vTotal := by
  obtain ⟨htc, hpos⟩ := h
  obtain ⟨hh, -⟩ := hi.armed htc
  obtain ⟨hcol, hrow⟩ := Driver.counters_of_position hh
  rw [hpos, Config.framePeriods] at hcol hrow
  exact ⟨hcol.trans (Nat.mod_mul_right_mod ..), hrow.trans (Nat.mod_mul_right_div_self ..)⟩

/-- A TICK takes the beam one period further (R147). -/
theorem tick_beamAt {c : Config} {n p : Nat} {d d' : Driver} (hi : d.Inv c) (hd : d.BeamAt c p)
    (h : tick c n d = .ok d') : d'.BeamAt c (p + 1) := by
  obtain ⟨htc, hpos⟩ := hd
  obtain ⟨hh, hv, -⟩ := hi.armed htc
  obtain ⟨hhc, hvc, -⟩ := tick_timing_of_armed htc h
  refine ⟨(tick_tcArmed h).trans htc, ?_⟩
  calc d'.position c = (advancePosition c d).position c := by rw [Driver.position, Driver.position, hhc, hvc]
    _ = (d.position c + 1) % c.framePeriods := advancePosition_position (hi.wf_of_tcArmed htc) hh hv
    _ = (p + 1) % c.framePeriods := by rw [hpos, Nat.mod_add_mod]

/-- A byte write of a `FILL` pass leaves the beam where it is. -/
theorem continueFill_beamAt {s t : State} {p : Nat} (hs : s.self.BeamAt s.cfg p) (h : continueFill s = .next t) :
    t.self.BeamAt s.cfg p := by
  rcases continueFill_eq_next.1 h with ⟨-, rfl⟩ | ⟨q, -, h⟩
  · exact hs
  · rw [fillWrite_frame h]
    exact hs

/-- A command other than `STOP` leaves the beam where it is (R156). -/
theorem exec_beamAt {i : Instr} {s t : State} {p : Nat} (hi : s.self.Inv s.cfg) (hs : s.self.BeamAt s.cfg p)
    (hne : i ≠ .stop) (h : exec i s = .next t) : t.self.BeamAt s.cfg p := by
  rw [exec_frame_of_running (hi.constructed_of_tcArmed hs.1) (hi.running_of_tcArmed hs.1) hne h]
  exact hs

/-- The pixel clock of a driver is never blocked: a TICK of any driver has a next state (R154). -/
theorem atInstance_tick_isNext {s : State} (hinv : s.DriversInv) {inst : Nat} (hinst : inst ≤ s.peers.length) :
    ∃ t, atInstance inst (act .tick) s = .next t := by
  obtain ⟨hself, hpeers⟩ := State.driversInv_iff.1 hinv
  cases inst with
  | zero =>
    obtain ⟨d, hd⟩ := tick_isOk hself s.draws
    exact ⟨_, atInstance_eq_next.2 (.inl ⟨rfl, tickSelf_eq_next.2 ⟨d, hd, rfl⟩⟩)⟩
  | succ k =>
    obtain ⟨d, hd⟩ := tick_isOk (hpeers _ (List.getElem_mem hinst)) s.draws
    exact ⟨_, atInstance_eq_next.2 (.inr
      ⟨k, _, _, rfl, List.getElem?_eq_getElem hinst, tickSelf_eq_next.2 ⟨d, hd, rfl⟩, rfl⟩)⟩

/-- The event of a TICK steps the driver addressed. -/
theorem step_tick {s t : State} {inst : Nat} {es : List Event} (hs : s.input = .act inst .tick :: es)
    (h : atInstance inst (act .tick) { s with input := es } = .next t) : step s = .next t :=
  step_eq_next.2 (.inr (.inl ⟨inst, .tick, es, hs, h⟩))

/-- The event of the driver's TICK takes the beam one period further. -/
theorem proceed_tick_beamAt {s t : State} {es : List Event} {p : Nat} (hinv : s.DriversInv)
    (hs : s.input = .act 0 .tick :: es) (hbeam : s.self.BeamAt s.cfg p) (h : proceed s = .ok t) :
    t.self.BeamAt s.cfg (p + 1) := by
  obtain ⟨u, hu⟩ := atInstance_tick_isNext (hinv.withInput es) (Nat.zero_le _)
  obtain rfl : u = t := Except.ok.inj ((proceed_eq_ok.2 (.inl (step_tick hs hu))).symm.trans h)
  obtain ⟨d, hd, rfl⟩ := tickSelf_eq_next.1 hu
  exact tick_beamAt hinv.self hbeam hd

/-- Every event but the driver's TICK and `STOP` and device reset leaves the beam where it is (R156). -/
theorem proceed_other_beamAt {s t : State} {e : Event} {es : List Event} {p : Nat} (hinv : s.DriversInv)
    (hs : s.input = e :: es) (hreset : e ≠ .reset) (htick : e ≠ .act 0 .tick)
    (hstop : ∀ w, e = .act 0 (.command w) → decode w ≠ .ok .stop) (hbeam : s.self.BeamAt s.cfg p)
    (h : proceed s = .ok t) : t.self.BeamAt s.cfg p := by
  rcases proceed_self hs h with he | hself | ⟨a, rfl, hact⟩
  · exact absurd he hreset
  · rw [hself]
    exact hbeam
  · rcases act_eq_next.1 hact with ⟨w, i, rfl, hw, hexec⟩ | ⟨-, hfill⟩ | ⟨rfl, -⟩
    · exact exec_beamAt (s := { s with input := es }) hinv.self hbeam (fun hi => hstop w rfl (hi ▸ hw)) hexec
    · exact continueFill_beamAt (s := { s with input := es }) hbeam hfill
    · exact absurd rfl htick

/-! ## A schedule -/

/-- A schedule takes the beam as many periods further as it has TICKs of this driver, by induction on the events; only
device reset and this driver's `STOP` may not stand in it (R156, R292). -/
theorem runInput_beamAt {es : List Event} {s t : State} {p : Nat} (hinv : s.DriversInv) (hs : s.input = es)
    (hkeep : ∀ e ∈ es, e ≠ .reset ∧ ∀ w, e = .act 0 (.command w) → decode w ≠ .ok .stop)
    (hbeam : s.self.BeamAt s.cfg p) (h : runInput s = .ok t) :
    t.self.Inv s.cfg ∧ t.self.BeamAt s.cfg (p + es.count (.act 0 .tick)) := by
  induction es generalizing s p with
  | nil =>
    obtain rfl : s = t := Except.ok.inj ((runInput_nil hs).symm.trans h)
    exact ⟨hinv.self, hbeam⟩
  | cons e es ih =>
    obtain ⟨u, hu, hinput, hrun⟩ := (runInput_cons hs).1 h
    obtain ⟨⟨hreset, hstop⟩, hkeep⟩ := List.forall_mem_cons.1 hkeep
    have hrest : ∀ {q}, u.self.BeamAt s.cfg q →
        t.self.Inv s.cfg ∧ t.self.BeamAt s.cfg (q + es.count (.act 0 .tick)) := fun hbeam => by
      rw [← proceed_cfg hu] at hbeam ⊢
      exact ih (proceed_driversInv hinv hu) hinput hkeep hbeam hrun
    by_cases htick : e = .act 0 .tick
    · subst htick
      rw [List.count_cons_self, Nat.add_comm (es.count _), ← Nat.add_assoc]
      exact hrest (proceed_tick_beamAt hinv hs hbeam hu)
    · rw [List.count_cons_of_ne htick]
      exact hrest (proceed_other_beamAt hinv hs hreset htick hstop hbeam hu)

end Sys2Proof.Machine
end

section
/-! The frame phases (41_timing_controller.md R146) and the vertical sync level (R145), interval by interval. -/

namespace Sys2Proof.Machine

theorem phase_eq_verticalSync {c : Config} {v : Nat} (h : v < c.vSync) : phase c v = .verticalSync := if_pos h

theorem phase_eq_activeVideo {c : Config} {v : Nat} (hlo : c.v0 ≤ v) (hhi : v < c.v0 + c.vActive) :
    phase c v = .activeVideo := by
  have hsync : ¬ v < c.vSync := by
    unfold Config.v0 at hlo
    omega
  rw [phase, if_neg hsync, if_pos (by simp [vWindow, hlo, hhi])]

theorem phase_eq_blanking {c : Config} {v : Nat} (hsync : c.vSync ≤ v) (h : v < c.v0 ∨ c.v0 + c.vActive ≤ v) :
    phase c v = .blanking := by
  rw [phase, if_neg (Nat.not_lt.2 hsync), if_neg]
  simp only [vWindow, Bool.and_eq_true, decide_eq_true_eq]
  omega

theorem vsLevel_of_lt {c : Config} {v : Nat} (h : v < c.vSync) : vsLevel c v = Level.drive c.syncActive := by
  rw [vsLevel, if_pos h]

theorem vsLevel_of_le {c : Config} {v : Nat} (h : c.vSync ≤ v) : vsLevel c v = Level.drive c.syncInactive := by
  rw [vsLevel, if_neg (Nat.not_lt.2 h)]

end Sys2Proof.Machine
end

section
/-! The statements of 41_timing_controller.md. -/

namespace Sys2Proof.Machine

/-- Settles O44, by induction on the events: a TICK of this driver takes the beam one period further, and no event
but its `STOP` and device reset moves it otherwise. -/
theorem positionClosedForm : Obligations.PositionClosedForm := by
  intro s t hinv htc hkeep hrun
  obtain ⟨hi, hbeam⟩ := runInput_beamAt hinv rfl hkeep (hinv.self.beamAt_position htc) hrun
  exact hbeam.counters hi

/-- Settles O40: the armed invariant keeps the counters inside the frame, where they wrap as stated. -/
theorem tickAdvancesPosition : Obligations.TickAdvancesPosition := by
  intro c n d d' hi hH hV htc h
  obtain ⟨hh, hv, -⟩ := hi.armed htc
  obtain ⟨hhc, hvc, -⟩ := tick_timing_of_armed htc h
  obtain ⟨-, hpos⟩ := tick_beamAt hi (hi.beamAt_position htc) h
  rw [hhc, hvc]
  exact ⟨advancePosition_hcount hH hh, advancePosition_vcount hV hv, hpos⟩

/-- Settles O41: both write the pin from the counter they write. -/
theorem hsyncFollowsHcount : Obligations.HsyncFollowsHcount := by
  refine ⟨fun c n d d' htc h => ?_, fun c P P' d d' h => ?_⟩
  · obtain ⟨hhc, -, hph, -⟩ := tick_timing_of_armed htc h
    rw [hph, hhc]
    rfl
  · obtain ⟨-, -, -, -, -, rfl⟩ := tcArm_eq_ok.1 h
    rfl

/-- Settles O42: both write the pin from the counter they write, and `vcount` stays until `hcount` wraps. -/
theorem vsyncChangesOnlyAtLineStart : Obligations.VsyncChangesOnlyAtLineStart := by
  refine ⟨fun c P P' d d' h => ?_, fun c n d d' hi htc h => ?_⟩
  · obtain ⟨-, -, -, -, -, rfl⟩ := tcArm_eq_ok.1 h
    rfl
  · obtain ⟨hh, -, -, hpv⟩ := hi.armed htc
    obtain ⟨hhc, hvc, -, hpv'⟩ := tick_timing_of_armed htc h
    refine ⟨by rw [hpv', hvc]; rfl, fun hne => ?_⟩
    rw [hhc] at hne
    obtain ⟨-, hsame⟩ := advancePosition_insideLine (hi.wf_of_tcArmed htc) hh
      fun hzero => hne (BitVec.eq_of_toNat_eq hzero)
    exact ⟨hvc.trans hsame, by rw [hpv', advancePosition_pinVsync, hsame, hpv]⟩

/-- Settles O43: the fetch of a TICK always finds its row in the framebuffer, and nothing else could stop it. -/
theorem tickAlwaysEnabled : Obligations.TickAlwaysEnabled := by
  intro s hinv
  refine ⟨fun inst hinst => atInstance_tick_isNext hinv hinst, clockEdge_isNext hinv, fun inst es hinst hs => ?_⟩
  obtain ⟨t, ht⟩ := atInstance_tick_isNext (hinv.withInput es) hinst
  obtain ⟨-, u, -, hd⟩ := driverAt_of_atInstance_act ht
  refine ⟨t, u.self, step_tick hs ht, hd, ?_⟩
  rw [stepShows_of_next hs (step_tick hs ht), eventShows, showPins, hd]
  rfl

/-- Settles O47: an armed TICK computes them from the counters before it, and a disarmed one keeps them. -/
theorem syncIndependentOfScanout : Obligations.SyncIndependentOfScanout := by
  intro c n n' d e d' e' htc hh hv hph hpv h h'
  cases hd : d.tcArmed with
  | false =>
    rw [hd] at htc
    obtain rfl : d = d' := Except.ok.inj ((tick_of_disarmed hd n).symm.trans h)
    obtain rfl : e = e' := Except.ok.inj ((tick_of_disarmed htc n').symm.trans h')
    exact ⟨hh, hv, hph, hpv⟩
  | true =>
    obtain ⟨h₁, h₂, h₃, h₄⟩ := tick_timing_of_armed hd h
    obtain ⟨h₁', h₂', h₃', h₄'⟩ := tick_timing_of_armed (htc.trans hd) h'
    rw [h₁, h₂, h₃, h₄, h₁', h₂', h₃', h₄']
    exact advancePosition_timing_congr hh hv

/-- Settles O39: it is the first case of what a TICK can do. -/
theorem tickWhileDisarmedChangesNothing : Obligations.TickWhileDisarmedChangesNothing :=
  fun _ n _ htc => tick_of_disarmed htc n

/-- Settles O45: both sums are among the constraints of R8, which the one mode meets. -/
theorem intervalsAddUp : Obligations.IntervalsAddUp := by
  refine ⟨fun c hwf => ?_, fun m n => ⟨?_, rfl, rfl, rfl, rfl⟩⟩
  · obtain ⟨hh, hv, -⟩ := Config.wf_iff.1 hwf
    exact ⟨hh, hv⟩
  · exact Config.wf_iff.2 (by simp [Config.vga640, Config.h0])

/-- Settles O46: the intervals of the mode are those of R149, with `SYNC_ACTIVE` the low level. -/
theorem frameLayout : Obligations.FrameLayout := by
  intro m n v
  have hsync : (Config.vga640 m n).vSync = 2 := rfl
  have hfirst : (Config.vga640 m n).v0 = 35 := rfl
  have hactive : (Config.vga640 m n).vActive = 480 := rfl
  refine ⟨fun hhi => ?_, fun hlo hhi => ?_, fun hlo hhi => ?_, fun hlo _ => ?_⟩
  · exact ⟨phase_eq_verticalSync (by omega), vsLevel_of_lt (by omega)⟩
  · exact ⟨phase_eq_blanking (by omega) (by omega), vsLevel_of_le (by omega)⟩
  · exact ⟨phase_eq_activeVideo (by omega) (by omega), vsLevel_of_le (by omega)⟩
  · exact ⟨phase_eq_blanking (by omega) (by omega), vsLevel_of_le (by omega)⟩

end Sys2Proof.Machine
end

section
/-! What `SE.tick` does to the row being served (42_scanout_engine.md R172, R176): it chooses, keeps or ends it. -/

namespace Sys2Proof.Machine

/-- An armed driver runs `SE.tick` at its next position (R147, R171). -/
theorem seTick_of_tick {c : Config} {n : Nat} {d d' : Driver} (htc : d.tcArmed = true) (hse : d.seArmed = true)
    (h : tick c n d = .ok d') : seTick c n (advancePosition c d) = .ok d' := by
  rw [tick, if_pos htc, if_pos hse] at h
  exact h

/-! ## The begin of a row -/

theorem vWindow_iff {c : Config} {v : Nat} : vWindow c v = true ↔ c.v0 ≤ v ∧ v < c.v0 + c.vActive := by
  rw [vWindow, Bool.and_eq_true, decide_eq_true_eq, decide_eq_true_eq]

theorem lineBoundary_iff {c : Config} {h : Nat} : lineBoundary c h = true ↔ h = c.lbLatency := beq_iff_eq

theorem pixelPeriod_iff {c : Config} {h : Nat} : pixelPeriod c h = true ↔ c.h0 ≤ h ∧ h < c.h0 + c.width := by
  rw [pixelPeriod, Bool.and_eq_true, decide_eq_true_eq, decide_eq_true_eq]

/-- The active-video lines are those of the vertical window (R36, R146). -/
theorem phase_eq_activeVideo_iff {c : Config} {v : Nat} :
    phase c v = .activeVideo ↔ c.v0 ≤ v ∧ v < c.v0 + c.vActive := by
  refine ⟨fun h => ?_, fun ⟨hlo, hhi⟩ => phase_eq_activeVideo hlo hhi⟩
  unfold phase at h
  split at h
  · cases h
  · split at h
    · exact vWindow_iff.1 ‹_›
    · cases h

theorem seBegin_of_activeLine {c : Config} {d : Driver} (hlb : d.hcount.toNat = c.lbLatency)
    (hv : c.v0 ≤ d.vcount.toNat ∧ d.vcount.toNat < c.v0 + c.vActive) :
    seBegin c d =
      { d with scanBusy := true, scanLine := BitVec.ofNat 9 (d.vcount.toNat - c.v0), fetched := [] } := by
  rw [seBegin, if_pos (lineBoundary_iff.2 hlb), if_pos (vWindow_iff.2 hv)]

theorem seBegin_of_otherLine {c : Config} {d : Driver} (hlb : d.hcount.toNat = c.lbLatency)
    (hv : ¬(c.v0 ≤ d.vcount.toNat ∧ d.vcount.toNat < c.v0 + c.vActive)) :
    seBegin c d = { d with scanBusy := false, fetched := [] } := by
  rw [seBegin, if_pos (lineBoundary_iff.2 hlb), if_neg (mt vWindow_iff.1 hv)]

theorem seBegin_of_noSignal {c : Config} {d : Driver} (hlb : d.hcount.toNat ≠ c.lbLatency) : seBegin c d = d := by
  rw [seBegin, if_neg (mt lineBoundary_iff.1 hlb)]

/-! ## The whole step -/

theorem seTick_hcount {c : Config} {n : Nat} {d d' : Driver} (h : seTick c n d = .ok d') : d'.hcount = d.hcount := by
  rw [seTick_frame h]
theorem seTick_vcount {c : Config} {n : Nat} {d d' : Driver} (h : seTick c n d = .ok d') : d'.vcount = d.vcount := by
  rw [seTick_frame h]

theorem seTick_scanLine {c : Config} {n : Nat} {d d' : Driver} (h : seTick c n d = .ok d') :
    d'.scanLine = (seBegin c d).scanLine := by
  obtain ⟨e, he, rfl⟩ := seTick_eq_ok.1 h
  rw [seEnd_scanLine, seShow_scanLine, seFetch_frame he]

/-- A row is served after the TICK when the begin left one and its last pixel period is not over (R172, R176). -/
theorem seTick_scanBusy {c : Config} {n : Nat} {d d' : Driver} (h : seTick c n d = .ok d') :
    d'.scanBusy = true ↔ (seBegin c d).scanBusy = true ∧ d.hcount.toNat ≠ c.h0 + c.width := by
  obtain ⟨e, he, rfl⟩ := seTick_eq_ok.1 h
  rw [seEnd_busy, seShow_scanBusy, seShow_hcount, seFetch_frame he, seBegin_hcount]

end Sys2Proof.Machine
end

section
/-! The colour (42_scanout_engine.md R175, R185): the latched pixel inside the pixel periods of a row, the inactive
level outside them. -/

namespace Sys2Proof.Machine

theorem scanLevel_of_scanning {c : Config} {d : Driver} (hb : d.scanBusy = true)
    (hh : c.h0 ≤ d.hcount.toNat ∧ d.hcount.toNat < c.h0 + c.width) :
    scanLevel c d = colorLevel c (latchedPixel c d (d.hcount.toNat - c.h0)) := by
  rw [scanLevel, if_pos (Bool.and_eq_true_iff.2 ⟨hb, pixelPeriod_iff.2 hh⟩)]

theorem scanLevel_of_blank {c : Config} {d : Driver}
    (h : ¬(d.scanBusy = true ∧ c.h0 ≤ d.hcount.toNat ∧ d.hcount.toNat < c.h0 + c.width)) :
    scanLevel c d = Level.drive c.colorInactive := by
  rw [scanLevel, if_neg]
  · rfl
  · rwa [Bool.and_eq_true, pixelPeriod_iff]

/-- The pixel of a column is a bit of `shreg` under `JIT` and of the row latch under the other policies. -/
theorem latchedPixel_eq (c : Config) (d : Driver) (col : Nat) :
    latchedPixel c d col = if c.fetchPolicy = .jit then d.shreg.getLsbD (col % 8)
      else (d.rowbuf.read (col / 8)).getLsbD (col % 8) := by
  unfold latchedPixel latchedByte byteBit
  cases c.fetchPolicy <;> rfl

end Sys2Proof.Machine
end

section
/-! What a fetch leaves in the latches (42_scanout_engine.md R174, R185), policy by policy, and the property all three
policies share: a byte is latched by the time its first pixel shows (20_memory.md R78). -/

namespace Sys2Proof.Machine

/-- `JIT` reads the byte in the TICK that shows its first pixel, and leaves `shreg` alone otherwise (R174). -/
theorem fetchJit_shreg {c : Config} {d d' : Driver} (h : fetchJit c d = .ok d') :
    d'.shreg =
      if d.scanBusy = true ∧ c.h0 ≤ d.hcount.toNat ∧ d.hcount.toNat < c.h0 + c.width ∧
          (d.hcount.toNat - c.h0) % 8 = 0 then
        d.fb.read (scanAddress c d ((d.hcount.toNat - c.h0) / 8))
      else d.shreg := by
  simp only [fetchJit, Bool.and_eq_true, pixelPeriod_iff, beq_iff_eq, and_assoc] at h ⊢
  split at h
  · rename_i hfirst
    rw [if_pos hfirst]
    split at h
    · rename_i v hv
      cases h
      exact (fbRead_eq_ok.1 hv).2
    · cases h
  · rename_i hother
    rw [if_neg hother]
    cases h
    rfl

/-- `ROW_LATCH` reads the whole row at the line-boundary signal, and leaves the row latch alone otherwise (R185). -/
theorem fetchRow_rowbuf {c : Config} {d d' : Driver} (hwf : d.rowbuf.wf = true) (hb : d.scanBusy = true)
    (h : fetchRow c d = .ok d') {k : Nat} (hk : k < c.rowBytes) :
    d'.rowbuf.read k =
      if d.hcount.toNat = c.lbLatency then d.fb.read (scanAddress c d k) else d.rowbuf.read k := by
  simp only [fetchRow, hb, Bool.and_true, lineBoundary_iff] at h
  split at h
  · rename_i hlb
    rw [if_pos hlb]
    split at h
    · rename_i buf hbuf
      cases h
      rw [(latchBytes_read hwf hbuf).2 k, if_pos (List.mem_range.2 hk)]
    · cases h
  · rename_i hlb
    rw [if_neg hlb]
    cases h
    rfl

/-- `ANY` marks as fetched the bytes it picks. -/
theorem fetchAny_fetched {c : Config} {n : Nat} {d d' : Driver} (hb : d.scanBusy = true)
    (h : fetchAny c n d = .ok d') {k : Nat} (hk : k < c.rowBytes) :
    k ∈ d'.fetched ↔ k ∈ d.fetched ∨ picksByte c n d k = true := by
  rw [fetchAny, if_pos hb] at h
  split at h
  · cases h
    simp [hk]
  · cases h

/-- `ANY` reads a picked byte that is not yet fetched, and leaves every other byte of the row latch alone (R185). -/
theorem fetchAny_rowbuf {c : Config} {n : Nat} {d d' : Driver} (hwf : d.rowbuf.wf = true) (hb : d.scanBusy = true)
    (h : fetchAny c n d = .ok d') {k : Nat} (hk : k < c.rowBytes) :
    d'.rowbuf.read k =
      if k ∉ d.fetched ∧ picksByte c n d k = true then d.fb.read (scanAddress c d k) else d.rowbuf.read k := by
  rw [fetchAny, if_pos hb] at h
  split at h
  · rename_i buf hbuf
    cases h
    simp [(latchBytes_read hwf hbuf).2 k, fetchesAny, hk]
  · cases h

/-- The latch holds what the pixel periods before `h` need of the row being served: under `JIT` the byte of the pixel
last shown, under `ROW_LATCH` the whole row once the signal is over, and under `ANY` the fetched bytes, among them every
byte whose first pixel has been shown. -/
def Driver.HoldsRowBefore (c : Config) (h : Nat) (d : Driver) : Prop :=
  match c.fetchPolicy with
  | .jit => c.h0 < h → d.shreg = d.fb.read (scanAddress c d ((h - 1 - c.h0) / 8))
  | .rowLatch => c.lbLatency < h → ∀ k < c.rowBytes, d.rowbuf.read k = d.fb.read (scanAddress c d k)
  | .any => ∀ k < c.rowBytes,
      (k ∈ d.fetched → d.rowbuf.read k = d.fb.read (scanAddress c d k)) ∧ (c.h0 + 8 * k < h → k ∈ d.fetched)

/-- At the line-boundary signal nothing is needed yet, and nothing counts as fetched. -/
theorem Driver.holdsRowBefore_lbLatency {c : Config} {d : Driver} (hlat : c.lbLatency ≤ c.h0) (hf : d.fetched = []) :
    d.HoldsRowBefore c c.lbLatency := by
  unfold HoldsRowBefore
  split
  · exact fun hlt => absurd hlt (Nat.not_lt.2 hlat)
  · exact fun hlt => absurd hlt (Nat.lt_irrefl _)
  · exact fun k _ => ⟨fun hk => absurd hk (by simp [hf]), fun hlt => by omega⟩

/-- A fetch of a row being served latches, under every policy, what this TICK's pixel needs (R78, R174, R185). -/
theorem seFetch_holdsRowBefore {c : Config} {n : Nat} {d d' : Driver} (hwf : d.rowbuf.wf = true)
    (hb : d.scanBusy = true) (hlb : c.lbLatency ≤ d.hcount.toNat) (hend : d.hcount.toNat < c.h0 + c.width)
    (hd : d.HoldsRowBefore c d.hcount.toNat) (h : seFetch c n d = .ok d') :
    d'.HoldsRowBefore c (d.hcount.toNat + 1) := by
  have hframe := seFetch_frame h
  have hfb : d'.fb = d.fb := by rw [hframe]
  have haddr : scanAddress c d' = scanAddress c d := by rw [hframe]; rfl
  unfold Driver.HoldsRowBefore at hd ⊢
  unfold seFetch at h
  rw [hfb, haddr]
  cases hpol : c.fetchPolicy with simp only [hpol] at hd h ⊢
  | jit =>
    intro hh0
    rw [fetchJit_shreg h, Nat.add_sub_cancel]
    split
    · rfl
    · rename_i hother
      have hinside : (d.hcount.toNat - c.h0) % 8 ≠ 0 := fun hfirst => hother ⟨hb, by omega, hend, hfirst⟩
      have hsame : (d.hcount.toNat - 1 - c.h0) / 8 = (d.hcount.toNat - c.h0) / 8 := by omega
      rw [hd (by omega), hsame]
  | rowLatch =>
    intro _ k hk
    rw [fetchRow_rowbuf hwf hb h hk]
    split
    · rfl
    · exact hd (by omega) k hk
  | any =>
    intro k hk
    obtain ⟨hread, hdone⟩ := hd k hk
    rw [fetchAny_rowbuf hwf hb h hk, fetchAny_fetched hb h hk]
    constructor
    · intro hmem
      split
      · rfl
      · rename_i hother
        exact hread (by_contra fun hnew => hother ⟨hnew, hmem.resolve_left hnew⟩)
    · intro hlt
      by_cases hnow : d.hcount.toNat = c.h0 + 8 * k
      · exact .inr (by simp [picksByte, hnow])
      · exact .inl (hdone (by omega))

/-- With all it needs, the pixel shown is the one of the framebuffer (R171, R175). -/
theorem Driver.HoldsRowBefore.latchedPixel_eq {c : Config} {d : Driver} {col : Nat} (hlat : c.lbLatency ≤ c.h0)
    (hw : c.width % 8 = 0) (hcol : col < c.width) (hd : d.HoldsRowBefore c (c.h0 + col + 1)) :
    latchedPixel c d col =
      byteBit (d.fb.read (pixelByte c d.scanLine.toNat col)) (pixelBit c d.scanLine.toNat col) := by
  have hk : col / 8 < c.rowBytes := by unfold Config.rowBytes; omega
  rw [latchedPixel, pixelByte_eq hw, pixelBit_eq hw]
  congr 1
  unfold HoldsRowBefore at hd
  unfold latchedByte
  cases hpol : c.fetchPolicy with simp only [hpol] at hd ⊢
  | jit =>
    rw [hd (by omega), show c.h0 + col + 1 - 1 - c.h0 = col by omega]
    rfl
  | rowLatch => exact hd (by omega) _ hk
  | any =>
    obtain ⟨hread, hdone⟩ := hd _ hk
    exact hread (hdone (by omega))

end Sys2Proof.Machine
end

section
/-! The scanout of one row (42_scanout_engine.md R177): from the end of the line before, TICK by TICK, the beam moves
along the row's line with the row in the latch. -/

namespace Sys2Proof.Machine

/-- The beam is at position `h` of the line of row `r`, and from the line-boundary signal on the row is being served
with all in the latch that was needed so far. -/
structure Driver.ScansRow (c : Config) (r h : Nat) (d : Driver) : Prop where
  armed : d.tcArmed = true
  vcount : d.vcount.toNat = c.v0 + r
  hcount : d.hcount.toNat = h
  serving : c.lbLatency ≤ h → d.scanBusy = true ∧ d.HoldsRowBefore c (h + 1)

/-- The begin of `SE.tick` in the line of a row: the row is chosen at the signal, and kept after it (R172). -/
theorem seBegin_serves {c : Config} {d : Driver} {h r : Nat} (hlat : c.lbLatency ≤ c.h0) (hr : r < c.vActive)
    (hh : d.hcount.toNat = h) (hv : d.vcount.toNat = c.v0 + r)
    (hd : c.lbLatency < h → d.scanBusy = true ∧ d.HoldsRowBefore c h) (hle : c.lbLatency ≤ h) :
    (seBegin c d).scanBusy = true ∧ (seBegin c d).HoldsRowBefore c h := by
  by_cases hlb : h = c.lbLatency
  · rw [seBegin_of_activeLine (hh.trans hlb) (by omega), hlb]
    exact ⟨rfl, Driver.holdsRowBefore_lbLatency hlat rfl⟩
  · rw [seBegin_of_noSignal (by omega)]
    exact hd (by omega)

/-- The end of `SE.tick` and the colour output leave the row in the latch. -/
theorem Driver.HoldsRowBefore.seEnd_seShow {c : Config} {h : Nat} {d : Driver} (hd : d.HoldsRowBefore c h) :
    (seEnd c (seShow c d)).HoldsRowBefore c h := by
  simpa only [HoldsRowBefore, scanAddress, seEnd_shreg, seEnd_rowbuf, seEnd_fetched, seEnd_fb, seEnd_scanLine,
    seShow_shreg, seShow_rowbuf, seShow_fetched, seShow_fb, seShow_scanLine] using hd

/-- `SE.tick` in the line of a row, before the row's end, serves the row and latches what its pixel needs. -/
theorem seTick_serves {c : Config} {n h r : Nat} {d d' : Driver} (hlat : c.lbLatency ≤ c.h0) (hr : r < c.vActive)
    (hwf : d.rowbuf.wf = true) (hend : h < c.h0 + c.width) (hh : d.hcount.toNat = h)
    (hv : d.vcount.toNat = c.v0 + r) (hd : c.lbLatency < h → d.scanBusy = true ∧ d.HoldsRowBefore c h)
    (hs : seTick c n d = .ok d') (hle : c.lbLatency ≤ h) : d'.scanBusy = true ∧ d'.HoldsRowBefore c (h + 1) := by
  obtain ⟨hbusy, hbefore⟩ := seBegin_serves hlat hr hh hv hd hle
  refine ⟨(seTick_scanBusy hs).2 ⟨hbusy, by omega⟩, ?_⟩
  obtain ⟨e, he, rfl⟩ := seTick_eq_ok.1 hs
  subst hh
  rw [← seBegin_hcount] at hle hend hbefore ⊢
  exact (seFetch_holdsRowBefore (by rwa [seBegin_rowbuf]) hbusy hle hend hbefore he).seEnd_seShow

/-- A TICK that puts the beam at position `h` of the line of row `r` scans that row, if the row was being served since
the signal. -/
theorem tick_scansRow {c : Config} {n h r : Nat} {d d' : Driver} (hi : d.Inv c) (htc : d.tcArmed = true)
    (hr : r < c.height) (hend : h < c.h0 + c.width) (hh : (advancePosition c d).hcount.toNat = h)
    (hv : (advancePosition c d).vcount.toNat = c.v0 + r)
    (hd : c.lbLatency < h → d.scanBusy = true ∧ d.HoldsRowBefore c h) (ht : tick c n d = .ok d') :
    d'.ScansRow c r h := by
  obtain ⟨-, -, -, -, -, -, -, hht, -, -, -, -, hlat, -⟩ := Config.wf_iff.1 (hi.wf_of_tcArmed htc)
  obtain ⟨hrow, -⟩ := hi.latches
  have hs := seTick_of_tick htc (hi.seArmed_of_tcArmed htc) ht
  exact {
    armed := (tick_tcArmed ht).trans htc
    vcount := by rw [seTick_vcount hs, hv]
    hcount := by rw [seTick_hcount hs, hh]
    serving := seTick_serves (d := advancePosition c d) hlat (by omega) hrow hend hh hv hd hs }

/-- The first TICK of the line of row `r` (R147). -/
theorem tick_scansRow_first {c : Config} {n r : Nat} {d d' : Driver} (hi : d.Inv c) (htc : d.tcArmed = true)
    (hr : r < c.height) (hv : d.vcount.toNat + 1 = c.v0 + r) (hh : d.hcount.toNat + 1 = c.hTotal)
    (ht : tick c n d = .ok d') : d'.ScansRow c r 0 := by
  obtain ⟨-, hvs, -, hact, -, -, hw, hht, -, hH, hV, -⟩ := Config.wf_iff.1 (hi.wf_of_tcArmed htc)
  obtain ⟨hlt, hvlt, -⟩ := hi.armed htc
  refine tick_scansRow hi htc hr (by omega) ?_ ?_ (fun hlt => absurd hlt (Nat.not_lt_zero _)) ht
  · rw [advancePosition_hcount hH hlt, if_pos (by omega)]
  · unfold Config.v0 at hv ⊢
    rw [advancePosition_vcount hV hvlt, if_pos (by omega), if_neg (by omega), hv]

/-- A further TICK in the line of row `r`, before the row's end. -/
theorem Driver.ScansRow.tick {c : Config} {n h r : Nat} {d d' : Driver} (hd : d.ScansRow c r h) (hi : d.Inv c)
    (hr : r < c.height) (hend : h + 1 < c.h0 + c.width) (ht : tick c n d = .ok d') : d'.ScansRow c r (h + 1) := by
  have hwf := hi.wf_of_tcArmed hd.armed
  obtain ⟨hsum, -, -, -, -, -, hw, -, -, hH, -⟩ := Config.wf_iff.1 hwf
  obtain ⟨hlt, -⟩ := hi.armed hd.armed
  have hhc := hd.hcount
  have hnext : (advancePosition c d).hcount.toNat = h + 1 := by
    unfold Config.h0 at hend
    rw [advancePosition_hcount hH hlt, if_neg (by omega), hhc]
  obtain ⟨-, hsame⟩ := advancePosition_insideLine hwf hlt (by omega)
  exact tick_scansRow hi hd.armed hr hend hnext (by rw [hsame, hd.vcount])
    (fun hlb => hd.serving (Nat.le_of_lt_succ hlb)) ht

theorem tickTimes_succ_of_tick {c : Config} {n : Nat} {d e : Driver} (h : tick c n d = .ok e) (k : Nat) :
    tickTimes c (k + 1) n d = tickTimes c k (n + drawsPerTick c) e := by
  rw [tickTimes, h]

/-- TICKs in the line of row `r` go on up to the row's end. -/
theorem Driver.ScansRow.tickTimes {c : Config} {k n h r : Nat} {d : Driver} (hd : d.ScansRow c r h) (hi : d.Inv c)
    (hr : r < c.height) (hend : h + k < c.h0 + c.width) :
    ∃ d', tickTimes c k n d = .ok d' ∧ d'.Inv c ∧ d'.ScansRow c r (h + k) ∧ d'.fb = d.fb := by
  induction k generalizing h n d with
  | zero => exact ⟨d, rfl, hi, hd, rfl⟩
  | succ k ih =>
    obtain ⟨e, he⟩ := tick_isOk hi n
    obtain ⟨d', hrun, hi', hd', hfb⟩ :=
      ih (n := n + drawsPerTick c) (hd.tick hi hr (by omega) he) (tick_inv hi he) (by omega)
    exact ⟨d', (tickTimes_succ_of_tick he k).trans hrun, hi', by rwa [Nat.add_right_comm] at hd',
      hfb.trans (tick_fb he)⟩

/-- In the period of column `col` the colour pin shows the pixel of the framebuffer (R177). -/
theorem Driver.ScansRow.pinColor {c : Config} {r col : Nat} {d : Driver} (hd : d.ScansRow c r (c.h0 + col))
    (hi : d.Inv c) (hcol : col < c.width) :
    d.pinColor = colorLevel c (byteBit (d.fb.read (pixelByte c r col)) (pixelBit c r col)) := by
  obtain ⟨-, -, -, -, -, -, -, -, hw, -, -, -, hlat, -⟩ := Config.wf_iff.1 (hi.wf_of_tcArmed hd.armed)
  obtain ⟨hbusy, hholds⟩ := hd.serving (by omega)
  obtain ⟨-, htrack⟩ := hi.servesBeamLine hbusy
  have hhc := hd.hcount
  have hvc := hd.vcount
  obtain ⟨-, -, hline, -⟩ := htrack (by omega)
  rw [hi.colour (hi.seArmed_of_tcArmed hd.armed), scanLevel_of_scanning hbusy (by omega), hhc, Nat.add_sub_cancel_left,
    hholds.latchedPixel_eq hlat hw hcol, hline, hvc, Nat.add_sub_cancel_left]

end Sys2Proof.Machine
end

section
/-! The statements of 42_scanout_engine.md. -/

namespace Sys2Proof.Machine

/-- Settles O49: the begin of `SE.tick` is the only part that starts a row or writes its line, and the signal comes
before the row's end. -/
theorem rowBeginsAtLineBoundary : Obligations.RowBeginsAtLineBoundary := by
  intro c n d d' hwf htc hse h
  obtain ⟨-, -, -, hact, -, -, hw, hht, -, -, -, hh9, hlat, -⟩ := Config.wf_iff.1 hwf
  have hs := seTick_of_tick htc hse h
  rw [seTick_scanBusy hs, seTick_scanLine hs, seTick_hcount hs, seTick_vcount hs]
  refine ⟨fun hlb hv => ?_, fun hlb hv => ?_, fun hlb => ?_⟩
  · have hline := phase_eq_activeVideo_iff.1 hv
    rw [seBegin_of_activeLine hlb hline]
    refine ⟨⟨rfl, by omega⟩, ?_⟩
    rw [BitVec.toNat_ofNat]
    exact Nat.mod_eq_of_lt (by omega)
  · rw [← Bool.not_eq_true, seTick_scanBusy hs, seBegin_of_otherLine hlb (mt phase_eq_activeVideo_iff.2 hv)]
    exact fun ⟨hbusy, _⟩ => Bool.false_ne_true hbusy
  · rw [seBegin_of_noSignal hlb]
    exact ⟨rfl, And.left⟩

/-- Settles O50: the position is past the pixel periods, where the colour is inactive, and it is the row's end. -/
theorem rowEndsAfterWidthPeriods : Obligations.RowEndsAfterWidthPeriods := by
  intro c n d d' hwf htc hse h hend
  have hs := seTick_of_tick htc hse h
  refine ⟨?_, ?_⟩
  · rw [seTick_pinColor hs]
    exact scanLevel_of_blank fun ⟨_, _, hlt⟩ => Nat.ne_of_lt hlt hend
  · rw [← Bool.not_eq_true, seTick_scanBusy hs, ← seTick_hcount hs]
    exact fun ⟨_, hne⟩ => hne hend

/-- Settles O51: only the fetch writes `shreg`, and inside the pixel periods the row does not end, so the engine is busy
after the TICK exactly when it was at the fetch. -/
theorem jitFetchesAtFirstPixel : Obligations.JitFetchesAtFirstPixel := by
  intro c n d d' hwf hjit htc hse h
  have hs := seTick_of_tick htc hse h
  simp only [seTick_scanBusy hs, seTick_scanLine hs, seTick_hcount hs]
  obtain ⟨e, he, rfl⟩ := seTick_eq_ok.1 hs
  rw [seFetch, hjit] at he
  rw [seEnd_shreg, seShow_shreg, fetchJit_shreg he, seBegin_hcount, seBegin_fb, seBegin_shreg]
  split
  · rename_i hfirst
    obtain ⟨⟨hb, -⟩, hin⟩ := hfirst
    exact if_pos ⟨hb, hin⟩
  · rename_i hother
    exact if_neg fun ⟨hb, hlo, hhi, hfirst⟩ => hother ⟨⟨hb, Nat.ne_of_lt hhi⟩, hlo, hhi, hfirst⟩

/-- Settles O52: a TICK shows the level of the pixel the engine holds. -/
theorem colourIsLatchedPixel : Obligations.ColourIsLatchedPixel := by
  intro c n d d' hwf htc hse h
  rw [seTick_pinColor (seTick_of_tick htc hse h)]
  split
  · rename_i hscan
    obtain ⟨hbusy, hh⟩ := hscan
    rw [scanLevel_of_scanning hbusy hh, latchedPixel_eq]
    rfl
  · exact scanLevel_of_blank ‹_›

/-- Settles O54, by induction on the TICKs: each keeps in the latch what the pixels shown so far needed of the row. -/
theorem everyPixelAppearsAtItsPosition : Obligations.EveryPixelAppearsAtItsPosition := by
  intro c n r col d hi hwf htc hse hr hcol hv hh
  obtain ⟨e, he⟩ := tick_isOk hi n
  obtain ⟨d', hrun, hi', hd', hfb⟩ := (tick_scansRow_first hi htc hr hv hh he).tickTimes
    (k := c.h0 + col) (n := n + drawsPerTick c) (tick_inv hi he) hr (by omega)
  rw [Nat.zero_add] at hd'
  refine ⟨d', ?_, hd'.vcount, hd'.hcount, ?_⟩
  · rw [Nat.add_assoc, Nat.add_comm 1, tickTimes_succ_of_tick he, hrun]
  · rw [hd'.pinColor hi' hcol, hfb, tick_fb he]

end Sys2Proof.Machine
end

section
/-! The checks that come before every command (43_driver_lifecycle.md R201; 10_state.md R47). -/

namespace Sys2Proof.Machine

/-- Every command is refused inside the driver's own `FILL` pass (10_state.md R47). -/
theorem exec_refused_of_filling {s : State} {p : FillPass} (hf : s.self.fillNext = some p) (i : Instr) :
    exec i s = .refused .fillInProgress := by
  have hchecked : ∃ r, exec i s = whenHostIdle s r := by cases i <;> exact ⟨_, rfl⟩
  obtain ⟨r, hr⟩ := hchecked
  rw [hr, whenHostIdle, hf]
  rfl

/-- Every command but `CONSTRUCT` is refused at an unconstructed driver (R201). -/
theorem exec_refused_of_unconstructed {s : State} {i : Instr} (hi : ∀ mode col hs vs, i ≠ .construct mode col hs vs)
    (hf : s.self.fillNext = none) (hc : s.self.constructed = false) : exec i s = .refused .unconstructed := by
  have hchecked : ∃ r, exec i s = whenConstructed s r := by
    cases i with
    | construct mode col hs vs => exact absurd rfl (hi mode col hs vs)
    | _ => exact ⟨_, rfl⟩
  obtain ⟨r, hr⟩ := hchecked
  rw [hr, whenConstructed, whenHostIdle, hf, hc]
  rfl

end Sys2Proof.Machine
end

section
/-! What one event does to one driver (00_scope.md R12; 43_driver_lifecycle.md R210, R212): an action acts on the driver
addressed and on no other, and a clock edge on each driver for itself. -/

namespace Sys2Proof.Machine

/-- An action at one driver leaves every other driver as it was (R210, R215). -/
theorem atInstance_driverAt_other {inst j : Nat} {a : Action} {s t : State}
    (h : atInstance inst (act a) s = .next t) (hj : j ≠ inst) : t.driverAt j = s.driverAt j := by
  rcases atInstance_eq_next.1 h with ⟨rfl, hu⟩ | ⟨k, d, u, rfl, -, -, rfl⟩
  · obtain ⟨-, hpeers, -⟩ := act_frame hu
    cases j with
    | zero => exact absurd rfl hj
    | succ j => exact congrArg (·[j]?) hpeers
  · cases j with
    | zero => rfl
    | succ j => exact List.getElem?_set_ne fun hkj => hj (congrArg (· + 1) hkj.symm)

/-- An action at a driver is an action of that driver, brought into focus. -/
theorem atInstance_driverAt_same {inst : Nat} {a : Action} {s t : State} {d : Driver}
    (h : atInstance inst (act a) s = .next t) (hd : s.driverAt inst = some d) :
    ∃ u, act a (s.withSelf d) = .next u ∧ t.driverAt inst = some u.self := by
  rcases atInstance_eq_next.1 h with ⟨rfl, hu⟩ | ⟨k, e, u, rfl, hk, hu, rfl⟩
  · obtain rfl := Option.some.inj hd
    exact ⟨t, hu, rfl⟩
  · obtain rfl : e = d := Option.some.inj (hk.symm.trans hd)
    obtain ⟨hlt, -⟩ := List.getElem?_eq_some_iff.1 hk
    exact ⟨u, hu, List.getElem?_set_self hlt⟩

/-- A byte write of a `FILL` pass and a TICK leave the pool alone (60_exceptions.md R256). -/
theorem act_pool {a : Action} {s t : State} (h : act a s = .next t) (ha : a = .tick ∨ a = .fillWrite) :
    t.pool = s.pool := by
  rcases act_eq_next.1 h with ⟨w, i, rfl, -, -⟩ | ⟨-, h⟩ | ⟨-, h⟩
  · exact absurd ha (by simp)
  · rcases continueFill_eq_next.1 h with ⟨-, rfl⟩ | ⟨p, -, h⟩
    · rfl
    · rw [fillWrite_frame h]
  · obtain ⟨d, -, rfl⟩ := tickSelf_eq_next.1 h
    rfl

theorem atInstance_act_pool {inst : Nat} {a : Action} {s t : State} (h : atInstance inst (act a) s = .next t)
    (ha : a = .tick ∨ a = .fillWrite) : t.pool = s.pool := by
  rcases atInstance_eq_next.1 h with ⟨-, hu⟩ | ⟨k, d, u, -, -, hu, rfl⟩
  · exact act_pool hu ha
  · exact act_pool (s := s.withSelf d) (t := u) hu ha

/-- A clock edge at the peers is a TICK of each. -/
theorem tickPeers_forall₂ {c : Config} {n : Nat} {ds es : List Driver} (h : tickPeers c n ds = .ok es) :
    List.Forall₂ (fun d e => ∃ m, tick c m d = .ok e) ds es := by
  induction ds generalizing n es with
  | nil => cases h; exact .nil
  | cons d ds ih =>
    obtain ⟨e, es, he, hes, rfl⟩ := tickPeers_cons_eq_ok.1 h
    exact .cons ⟨n, he⟩ (ih hes)

/-- A clock edge is a TICK of each driver. -/
theorem clockEdge_driverAt {s t : State} {j : Nat} {d e : Driver} (h : clockEdge s = .next t)
    (hd : s.driverAt j = some d) (he : t.driverAt j = some e) : ∃ n, tick s.cfg n d = .ok e := by
  obtain ⟨d₀, ds, htick, hticks, rfl⟩ := clockEdge_eq_next.1 h
  cases j with
  | zero =>
    obtain rfl := Option.some.inj hd
    obtain rfl := Option.some.inj he
    exact ⟨_, htick⟩
  | succ k =>
    obtain ⟨hk, rfl⟩ := List.getElem?_eq_some_iff.1 hd
    obtain ⟨hk', rfl⟩ := List.getElem?_eq_some_iff.1 he
    exact (tickPeers_forall₂ hticks).get hk hk'

theorem State.DriversInv.driverAt {s : State} (h : s.DriversInv) {j : Nat} {d : Driver} (hd : s.driverAt j = some d) :
    d.Inv s.cfg := by
  obtain ⟨hself, hpeers⟩ := State.driversInv_iff.1 h
  cases j with
  | zero => exact Option.some.inj hd ▸ hself
  | succ k => exact hpeers d (List.mem_of_getElem? hd)

/-- All that a step can do to one driver. -/
theorem step_driverAt {s t : State} {j : Nat} {d e : Driver} (h : step s = .next t) (hd : s.driverAt j = some d)
    (he : t.driverAt j = some e) :
    e = d ∨ (∃ n, tick s.cfg n d = .ok e) ∨ (∃ es, s.input = .reset :: es) ∨
    ∃ a es u, s.input = .act j a :: es ∧ act a { s with input := es, self := d } = .next u ∧ e = u.self := by
  rcases step_eq_next.1 h with ⟨-, hedge⟩ | ⟨inst, a, es, hs, hact⟩ | ⟨es, hs, -⟩
  · exact .inr (.inl (clockEdge_driverAt hedge hd he))
  · by_cases hj : j = inst
    · subst hj
      obtain ⟨u, hu, htu⟩ := atInstance_driverAt_same hact hd
      exact .inr (.inr (.inr ⟨a, es, u, hs, hu, Option.some.inj (he.symm.trans htu)⟩))
    · exact .inl (Option.some.inj (he.symm.trans ((atInstance_driverAt_other hact hj).trans hd)))
  · exact .inr (.inr (.inl ⟨es, hs⟩))

end Sys2Proof.Machine
end

section
/-! A session (43_driver_lifecycle.md R203, R212): what the events between a driver's `START` and its `STOP` can change
of it, and that they do not end it. -/

namespace Sys2Proof.Machine

/-- A driver with the fields that a running session can change taken from another: the position, the scanout state and its
latches, the pins, the framebuffer, the `FILL` progress and the response. -/
def Driver.withDisplayOf (d e : Driver) : Driver :=
  { d with
    hcount := e.hcount, vcount := e.vcount, scanBusy := e.scanBusy, scanLine := e.scanLine, shreg := e.shreg,
    rowbuf := e.rowbuf, fetched := e.fetched, pinHsync := e.pinHsync, pinVsync := e.pinVsync, pinColor := e.pinColor,
    fb := e.fb, fillNext := e.fillNext, rsp := e.rsp }

theorem Driver.withDisplayOf_trans {d e f : Driver} (h₁ : e = d.withDisplayOf e) (h₂ : f = e.withDisplayOf f) :
    f = d.withDisplayOf f :=
  h₂.trans (by rw [h₁]; rfl)

theorem tick_withDisplayOf {c : Config} {n : Nat} {d e : Driver} (h : tick c n d = .ok e) : e = d.withDisplayOf e := by
  rw [tick_frame h]
  rfl

/-- An action of a running driver other than its `STOP` keeps the session going (R212). -/
theorem act_withDisplayOf {a : Action} {s t : State} (hi : s.self.Inv s.cfg) (hrun : s.self.lcState = .running)
    (hstop : ∀ w, a = .command w → decode w ≠ .ok .stop) (h : act a s = .next t) :
    t.self = s.self.withDisplayOf t.self := by
  rcases act_eq_next.1 h with ⟨w, i, rfl, hw, hexec⟩ | ⟨-, hfill⟩ | ⟨-, htick⟩
  · have hne : i ≠ .stop := fun he => hstop w rfl (he ▸ hw)
    rw [exec_frame_of_running (hi.constructed_of_running hrun) hrun hne hexec]
    rfl
  · rcases continueFill_eq_next.1 hfill with ⟨-, rfl⟩ | ⟨p, -, hwrite⟩
    · rfl
    · rw [fillWrite_frame hwrite]
      rfl
  · obtain ⟨d, hd, rfl⟩ := tickSelf_eq_next.1 htick
    exact tick_withDisplayOf hd

/-- A step ends a driver's session only if it is device reset or the driver's own `STOP` (R212). -/
theorem step_endsSession {s t : State} {j : Nat} {d e : Driver} (hinv : s.DriversInv) (h : step s = .next t)
    (hd : s.driverAt j = some d) (he : t.driverAt j = some e) (hrun : d.lcState = .running)
    (hend : e.lcState ≠ .running) :
    (∃ es, s.input = .reset :: es) ∨ ∃ w es, s.input = .act j (.command w) :: es ∧ decode w = .ok .stop := by
  have goesOn : e ≠ d.withDisplayOf e := fun hde => hend (by rw [hde]; exact hrun)
  rcases step_driverAt h hd he with rfl | ⟨n, htick⟩ | hreset | ⟨a, es, u, hs, hact, rfl⟩
  · exact absurd hrun hend
  · exact absurd (tick_withDisplayOf htick) goesOn
  · exact .inl hreset
  · by_contra hnone
    refine goesOn (act_withDisplayOf (s := { s with input := es, self := d }) (hinv.driverAt hd) hrun ?_ hact)
    exact fun w hw hdec => hnone (.inr ⟨w, es, hw ▸ hs, hdec⟩)

end Sys2Proof.Machine
end

section
/-! All that `START` and `STOP` can do (43_driver_lifecycle.md R204 to R208): they fail and change only the response, or
they leave the states `State.started` and `State.stopped`. -/

namespace Sys2Proof.Machine

theorem hsLevel_of_lt {c : Config} {h : Nat} (hh : h < c.hSync) : hsLevel c h = Level.drive c.syncActive := by
  rw [hsLevel, if_pos hh]

/-- An idle driver's `TC.disarm` after its `TC.arm` gives the pool and the driver back (R206). -/
theorem Driver.Inv.tcDisarm_tcArm {c : Config} {P P' : Pool} {d d' : Driver} (hi : d.Inv c)
    (hidle : d.lcState = .idle) (h : tcArm c P d = .ok (P', d')) : tcDisarm c P' d' = (P, d) := by
  obtain ⟨htc, -⟩ := hi.idle hidle
  obtain ⟨hh, hv, hhs, hvs⟩ := hi.disarmed htc
  exact Machine.tcDisarm_tcArm h htc hh hv hhs hvs

/-- The errors of the arms (60_exceptions.md R233, R234). -/
theorem tcArm_error_ne_ok {c : Config} {P : Pool} {d : Driver} {e : Status} (h : tcArm c P d = .error e) :
    e ≠ .ok := by
  rcases tcArm_eq_error.1 h with ⟨-, rfl⟩ | ⟨-, -, rfl⟩ <;> exact nofun

theorem seArm_error_ne_ok {c : Config} {P : Pool} {d : Driver} {e : Status} (h : seArm c P d = .error e) :
    e ≠ .ok := by
  rcases seArm_eq_error.1 h with ⟨-, rfl⟩ | ⟨-, -, rfl⟩ <;> exact nofun

/-- A `START` fails and changes only the response, its rollback included, or it succeeds on an idle driver whose
resources are free (R204 to R206). -/
theorem execStart_cases {s t : State} (hi : s.self.Inv s.cfg) (h : execStart s = .next t) :
    (∃ e, e ≠ .ok ∧ t = s.respond e false) ∨
    (s.self.lcState = .idle ∧ s.pool.FreeFor s.cfg s.self ∧ t = s.started) := by
  obtain ⟨-, -, ⟨-, rfl⟩ | ⟨hidle, -, harms⟩⟩ := execStart_eq_next.1 h
  · exact .inl ⟨.alreadyRunning, nofun, rfl⟩
  rcases startArms_eq_next.1 harms with ⟨e, htc, rfl⟩ | ⟨P, d, e, htc, hse, rfl⟩ | ⟨P, d, P', d', htc, hse, rfl⟩
  · exact .inl ⟨e, tcArm_error_ne_ok htc, rfl⟩
  · rw [hi.tcDisarm_tcArm hidle htc]
    exact .inl ⟨e, seArm_error_ne_ok hse, rfl⟩
  · obtain ⟨htiming, hhs, hvs, hvh, rfl, rfl⟩ := tcArm_eq_ok.1 htc
    obtain ⟨hcol, hout, rfl, rfl⟩ := seArm_eq_ok.1 hse
    simp only [mem_insertPin, not_or] at hcol
    obtain ⟨hcv, hch, hcp⟩ := hcol
    exact .inr ⟨hidle, ⟨htiming, hout, hhs, hvs, hcp, hvh, hch, hcv⟩, rfl⟩

/-- A `STOP` of an idle driver changes only the response, and that of a running one releases everything (R208). -/
theorem execStop_cases {s t : State} (hi : s.self.Inv s.cfg) (h : execStop s = .next t) :
    t = s.respond .notRunning false ∨ (s.self.lcState = .running ∧ t = s.stopped) := by
  obtain ⟨hf, -, ⟨-, rfl⟩ | ⟨hrun, -⟩⟩ := execStop_eq_next.1 h
  · exact .inl rfl
  · exact .inr ⟨hrun, Host.Outcome.next.inj (h.symm.trans (exec_stop_of_running hi hf hrun))⟩

/-- A `STOP` after a `START` gives the pool back (R209). -/
theorem stopped_pool_of_started {s u : State} (hfree : s.pool.FreeFor s.cfg s.self) (hcfg : u.cfg = s.cfg)
    (hself : u.self = s.started.self.withDisplayOf u.self) (hpool : u.pool = s.started.pool) :
    u.stopped.pool = s.pool := by
  have hcol : s.self.cfgColPin ∉ insertPin s.self.cfgVsPin (insertPin s.self.cfgHsPin s.pool.pins) := by
    simp only [mem_insertPin, not_or]
    exact ⟨hfree.col_ne_vs, hfree.col_ne_hs, hfree.colPin⟩
  calc u.stopped.pool
      = { pins := removePin s.self.cfgVsPin (removePin s.self.cfgHsPin (removePin s.self.cfgColPin s.started.pool.pins)),
          freeTiming := s.pool.freeTiming - s.cfg.tcChannels + s.cfg.tcChannels,
          freeOutput := s.pool.freeOutput - s.cfg.seChannels + s.cfg.seChannels } := by
        rw [State.stopped, hself, hpool, hcfg]
        rfl
    _ = s.pool := by
        rw [State.started, removePin_insertPin hcol, removePin_insertPin_insertPin hfree.vs_ne_hs.symm hfree.hsPin,
          removePin_insertPin hfree.vsPin, Nat.sub_add_cancel hfree.timing, Nat.sub_add_cancel hfree.output]

end Sys2Proof.Machine
end

section
/-! Conservation of the resource pool (60_exceptions.md R254): what each driver holds, the law of the pool as a law about
these holdings in any order, and that every step keeps it. -/

namespace Sys2Proof.Machine

/-! ## Holdings -/

/-- What a driver holds of the pool (10_state.md R46). -/
structure Holding where
  pins : List Pin
  timing : Nat
  output : Nat

/-- The holding of a driver that claims nothing. -/
def Holding.nothing : Holding := ⟨[], 0, 0⟩

def Driver.holding (c : Config) (d : Driver) : Holding := ⟨d.claimedPins, d.claimedTiming c, d.claimedOutput c⟩

def State.holdings (s : State) : List Holding := s.drivers.map (Driver.holding s.cfg)

theorem Driver.holding_of_disarmed {c : Config} {d : Driver} (htc : d.tcArmed = false) (hse : d.seArmed = false) :
    d.holding c = Holding.nothing := by
  simp [Driver.holding, Driver.claimedPins, Driver.claimedTiming, Driver.claimedOutput, htc, hse, Holding.nothing]

theorem Driver.holding_of_armed {c : Config} {d : Driver} (htc : d.tcArmed = true) (hse : d.seArmed = true) :
    d.holding c = ⟨[d.cfgHsPin, d.cfgVsPin, d.cfgColPin], c.tcChannels, c.seChannels⟩ := by
  simp [Driver.holding, Driver.claimedPins, Driver.claimedTiming, Driver.claimedOutput, htc, hse]

theorem Driver.Inv.holding_of_idle {c : Config} {d : Driver} (hi : d.Inv c) (hidle : d.lcState = .idle) :
    d.holding c = Holding.nothing := by
  obtain ⟨htc, hse⟩ := hi.idle hidle
  exact Driver.holding_of_disarmed htc hse

/-- A holding depends on the armed bits and the configured pins only, which no TICK changes. -/
theorem tick_holding {c : Config} {n : Nat} {d e : Driver} (h : tick c n d = .ok e) : e.holding c = d.holding c := by
  rw [tick_frame h]
  rfl

/-- A clock edge changes no driver's holding. -/
theorem tickPeers_holding {c : Config} {n : Nat} {ds es : List Driver} (h : tickPeers c n ds = .ok es) :
    es.map (Driver.holding c) = ds.map (Driver.holding c) := by
  have hall := tickPeers_forall₂ h
  clear h
  induction hall with
  | nil => rfl
  | cons hd _ ih =>
    obtain ⟨m, hd⟩ := hd
    rw [List.map_cons, List.map_cons, tick_holding hd, ih]

/-! ## The law -/

/-- Conservation (R254) for a pool and the holdings of its drivers. -/
structure Pool.Conserves (c : Config) (P : Pool) (hs : List Holding) : Prop where
  rising : P.pins.Pairwise (· < ·)
  disjoint : (hs.flatMap Holding.pins).Nodup
  union : ∀ p, p ∈ P.pins ↔ p ∈ hs.flatMap Holding.pins
  timing : P.freeTiming + (hs.map Holding.timing).sum = c.poolTiming
  output : P.freeOutput + (hs.map Holding.output).sum = c.poolOutput

theorem State.poolInv_iff {s : State} : s.PoolInv ↔ s.pool.Conserves s.cfg s.holdings := by
  have hpins : s.holdings.flatMap Holding.pins = s.claimedPins := List.flatMap_map ..
  have htiming : s.holdings.map Holding.timing = s.drivers.map (Driver.claimedTiming s.cfg) := List.map_map ..
  have houtput : s.holdings.map Holding.output = s.drivers.map (Driver.claimedOutput s.cfg) := List.map_map ..
  constructor
  · rintro ⟨hrise, hdis, hunion, ht, ho⟩
    exact ⟨hrise, by rwa [hpins], by rwa [hpins], by rwa [htiming], by rwa [houtput]⟩
  · rintro ⟨hrise, hdis, hunion, ht, ho⟩
    rw [hpins] at hdis hunion
    rw [htiming] at ht
    rw [houtput] at ho
    exact ⟨hrise, hdis, hunion, ht, ho⟩

/-- The law does not depend on the order of the drivers. -/
theorem Pool.Conserves.perm {c : Config} {P : Pool} {hs hs' : List Holding} (h : P.Conserves c hs)
    (hperm : hs.Perm hs') : P.Conserves c hs' := by
  have hpins := hperm.flatMap_right Holding.pins
  exact {
    rising := h.rising
    disjoint := hpins.nodup_iff.1 h.disjoint
    union := fun p => (h.union p).trans hpins.mem_iff
    timing := (hperm.map Holding.timing).sum_eq ▸ h.timing
    output := (hperm.map Holding.output).sum_eq ▸ h.output }

/-- The pool after reset is conserved when no driver holds anything. -/
theorem Pool.conserves_reset {c : Config} {hs : List Holding} (h : ∀ x ∈ hs, x = Holding.nothing) :
    (Pool.reset c).Conserves c hs := by
  rw [List.eq_replicate_of_mem h]
  have hpins : (List.replicate hs.length Holding.nothing).flatMap Holding.pins = [] :=
    List.flatMap_eq_nil_iff.2 fun x hx => by rw [List.eq_of_mem_replicate hx]; rfl
  exact {
    rising := List.Pairwise.nil
    disjoint := hpins ▸ List.nodup_nil
    union := fun p => by rw [hpins]; exact Iff.rfl
    timing := by simp [Pool.reset, Holding.nothing]
    output := by simp [Pool.reset, Holding.nothing] }

/-! ## START and STOP -/

/-- The claims of a `START` move from the pool to its driver (60_exceptions.md R251 to R253). -/
theorem Pool.Conserves.started {s : State} {hs : List Holding}
    (h : s.pool.Conserves s.cfg (Holding.nothing :: hs)) (hfree : s.pool.FreeFor s.cfg s.self) :
    s.started.pool.Conserves s.cfg (s.started.self.holding s.cfg :: hs) := by
  obtain ⟨hrise, hdis, hunion, ht, ho⟩ := h
  obtain ⟨htiming, hout, hhs, hvs, hcol, hvh, hch, hcv⟩ := hfree
  rw [Driver.holding_of_armed rfl rfl]
  simp only [Holding.nothing, List.flatMap_cons, List.nil_append, List.map_cons, List.sum_cons] at hdis hunion ht ho
  rw [hunion] at hhs hvs hcol
  exact {
    rising := insertPin_rising (insertPin_rising (insertPin_rising hrise _) _) _
    disjoint := by
      simp only [List.flatMap_cons, List.cons_append, List.nil_append, List.nodup_cons, List.mem_cons, not_or]
      exact ⟨⟨hvh.symm, hch.symm, hhs⟩, ⟨hcv.symm, hvs⟩, hcol, hdis⟩
    union := fun p => by
      simp only [State.started, mem_insertPin, hunion, List.flatMap_cons, List.cons_append, List.nil_append,
        List.mem_cons]
      tauto
    timing := by
      simp only [State.started, List.map_cons, List.sum_cons]
      omega
    output := by
      simp only [State.started, List.map_cons, List.sum_cons]
      omega }

/-- The claims of a running driver go back to the pool at its `STOP` (R251 to R253). -/
theorem Pool.Conserves.stopped {s : State} {hs : List Holding}
    (h : s.pool.Conserves s.cfg (s.self.holding s.cfg :: hs)) (htc : s.self.tcArmed = true)
    (hse : s.self.seArmed = true) : s.stopped.pool.Conserves s.cfg (Holding.nothing :: hs) := by
  obtain ⟨hrise, hdis, hunion, ht, ho⟩ := h
  rw [Driver.holding_of_armed htc hse] at hdis hunion ht ho
  simp only [List.flatMap_cons, List.cons_append, List.nil_append, List.nodup_cons, List.mem_cons, not_or,
    List.map_cons, List.sum_cons] at hdis hunion ht ho
  obtain ⟨⟨-, -, hhs⟩, ⟨-, hvs⟩, hcol, hdis⟩ := hdis
  exact {
    rising := removePin_rising (removePin_rising (removePin_rising hrise _) _) _
    disjoint := hdis
    union := fun p => by
      rw [mem_stopped_pins hrise, hunion]
      simp only [Holding.nothing, List.flatMap_cons, List.nil_append]
      constructor
      · tauto
      · exact fun hp => ⟨.inr (.inr (.inr hp)), fun he => hhs (he ▸ hp), fun he => hvs (he ▸ hp),
          fun he => hcol (he ▸ hp)⟩
    timing := by
      simp only [State.stopped, Holding.nothing, List.map_cons, List.sum_cons]
      omega
    output := by
      simp only [State.stopped, Holding.nothing, List.map_cons, List.sum_cons]
      omega }

/-! ## Commands, actions and steps -/

/-- All that a command can do to the pool and to what its driver holds: nothing, or what a `START` or a `STOP` that
completes does. -/
theorem exec_holding_cases {i : Instr} {s t : State} (hi : s.self.Inv s.cfg) (h : exec i s = .next t) :
    (t.pool = s.pool ∧ t.self.holding s.cfg = s.self.holding s.cfg) ∨
    (s.self.lcState = .idle ∧ s.pool.FreeFor s.cfg s.self ∧ t = s.started) ∨
    (s.self.lcState = .running ∧ t = s.stopped) := by
  cases i with
  | construct mode col hs vs =>
    obtain ⟨-, hu, -, ⟨-, rfl⟩ | ⟨-, rfl⟩⟩ := execConstruct_eq_next.1 h
    · obtain ⟨hidle, -⟩ := hi.unbuilt_fields hu
      exact .inl ⟨rfl, (Driver.holding_of_disarmed rfl rfl).trans (hi.holding_of_idle hidle).symm⟩
    · exact .inl ⟨rfl, rfl⟩
  | destroy =>
    obtain ⟨-, -, hidle, rfl⟩ := execDestroy_eq_next.1 h
    exact .inl ⟨rfl, (Driver.holding_of_disarmed rfl rfl).trans (hi.holding_of_idle hidle).symm⟩
  | start =>
    rcases execStart_cases hi h with ⟨e, -, rfl⟩ | hok
    · exact .inl ⟨rfl, rfl⟩
    · exact .inr (.inl hok)
  | stop =>
    rcases execStop_cases hi h with rfl | hok
    · exact .inl ⟨rfl, rfl⟩
    · exact .inr (.inr hok)
  | setPixel x y => rw [writePixel_frame h]; exact .inl ⟨rfl, rfl⟩
  | clearPixel x y => rw [writePixel_frame h]; exact .inl ⟨rfl, rfl⟩
  | getPixel x y => rw [execGetPixel_frame h]; exact .inl ⟨rfl, rfl⟩
  | fill v =>
    obtain ⟨-, -, h⟩ := execFill_eq_next.1 h
    rw [fillWrite_frame h]
    exact .inl ⟨rfl, rfl⟩
  | writeRowByte y k d => rw [execWriteRowByte_frame h]; exact .inl ⟨rfl, rfl⟩

/-- A command keeps the law, whatever the other drivers hold. -/
theorem exec_conserves {i : Instr} {s t : State} {hs : List Holding} (hi : s.self.Inv s.cfg)
    (hc : s.pool.Conserves s.cfg (s.self.holding s.cfg :: hs)) (h : exec i s = .next t) :
    t.pool.Conserves s.cfg (t.self.holding s.cfg :: hs) := by
  rcases exec_holding_cases hi h with ⟨hpool, hhold⟩ | ⟨hidle, hfree, rfl⟩ | ⟨hrun, rfl⟩
  · rwa [hpool, hhold]
  · rw [hi.holding_of_idle hidle] at hc
    exact hc.started hfree
  · obtain ⟨htc, hse⟩ := hi.running.1 hrun
    rw [Driver.holding_of_disarmed rfl rfl]
    exact hc.stopped htc hse

theorem exec_poolInv {i : Instr} {s t : State} (hinv : s.DriversInv) (hp : s.PoolInv) (h : exec i s = .next t) :
    t.PoolInv := by
  rw [State.poolInv_iff] at hp ⊢
  obtain ⟨hcfg, hpeers, -⟩ := exec_frame h
  rw [State.holdings, State.drivers, hcfg, hpeers]
  exact exec_conserves hinv.self hp h

/-- An action keeps the law, whatever the other drivers hold. -/
theorem act_conserves {a : Action} {s t : State} {hs : List Holding} (hi : s.self.Inv s.cfg)
    (hc : s.pool.Conserves s.cfg (s.self.holding s.cfg :: hs)) (h : act a s = .next t) :
    t.pool.Conserves s.cfg (t.self.holding s.cfg :: hs) := by
  rcases act_eq_next.1 h with ⟨w, i, -, -, hexec⟩ | ⟨-, hfill⟩ | ⟨-, htick⟩
  · exact exec_conserves hi hc hexec
  · rcases continueFill_eq_next.1 hfill with ⟨-, rfl⟩ | ⟨p, -, hwrite⟩
    · exact hc
    · rw [fillWrite_frame hwrite]
      exact hc
  · obtain ⟨d, hd, rfl⟩ := tickSelf_eq_next.1 htick
    rwa [tick_holding hd]

/-- A peer's holding may stand first. -/
theorem State.holdings_perm {s : State} {k : Nat} {d : Driver} (hk : s.peers[k]? = some d) :
    s.holdings.Perm
      (d.holding s.cfg :: s.self.holding s.cfg :: (s.peers.eraseIdx k).map (Driver.holding s.cfg)) := by
  obtain ⟨hlt, rfl⟩ := List.getElem?_eq_some_iff.1 hk
  have hpeers : s.drivers.Perm (s.peers[k] :: s.self :: s.peers.eraseIdx k) :=
    ((List.getElem_cons_eraseIdx_perm hlt).symm.cons _).trans (List.Perm.swap ..)
  exact hpeers.map _

/-- An action of any driver keeps the law. -/
theorem atInstance_act_poolInv {inst : Nat} {a : Action} {s t : State} (hinv : s.DriversInv) (hp : s.PoolInv)
    (h : atInstance inst (act a) s = .next t) : t.PoolInv := by
  rw [State.poolInv_iff] at hp ⊢
  rcases atInstance_eq_next.1 h with ⟨-, hu⟩ | ⟨k, d, u, -, hk, hu, rfl⟩
  · obtain ⟨hcfg, hpeers, -⟩ := act_frame hu
    rw [State.holdings, State.drivers, hcfg, hpeers]
    exact act_conserves hinv.self hp hu
  · obtain ⟨hcfg, -, -⟩ := act_frame hu
    obtain ⟨hlt, -⟩ := List.getElem?_eq_some_iff.1 hk
    have hd : d.Inv s.cfg := hinv.driverAt (j := k + 1) hk
    have hkept := act_conserves (s := s.withSelf d) hd (hp.perm (State.holdings_perm hk)) hu
    refine Pool.Conserves.perm ?_ (State.holdings_perm (d := u.self) (List.getElem?_set_self hlt)).symm
    rw [List.eraseIdx_set_eq]
    simpa only [hcfg] using hkept

/-- Every step keeps the pool's conservation law (R254). -/
theorem step_poolInv {s t : State} (hinv : s.DriversInv) (hp : s.PoolInv) (h : step s = .next t) : t.PoolInv := by
  rcases step_eq_next.1 h with ⟨-, hedge⟩ | ⟨inst, a, es, -, hact⟩ | ⟨es, -, rfl⟩
  · obtain ⟨d, ds, htick, hticks, rfl⟩ := clockEdge_eq_next.1 hedge
    rw [State.poolInv_iff] at hp ⊢
    have hsame : d.holding s.cfg :: ds.map (Driver.holding s.cfg) = s.holdings := by
      rw [tick_holding htick, tickPeers_holding hticks]
      rfl
    rw [← hsame] at hp
    exact hp
  · exact atInstance_act_poolInv (hinv.withInput es) (hp.withInput es) hact
  · refine State.poolInv_iff.2 (Pool.conserves_reset fun x hx => ?_)
    obtain ⟨d, hd, rfl⟩ := List.mem_map.1 hx
    obtain ⟨k, rfl⟩ := exists_of_mem_drivers_deviceReset hd
    exact Driver.holding_of_disarmed rfl rfl

theorem proceed_poolInv {s t : State} (hinv : s.DriversInv) (hp : s.PoolInv) (h : proceed s = .ok t) : t.PoolInv := by
  rcases proceed_eq_ok.1 h with h | ⟨why, -, rfl⟩
  · exact step_poolInv hinv hp h
  · exact hp.withInput _

end Sys2Proof.Machine
end

section
/-! A whole session (43_driver_lifecycle.md R209): what a schedule without the driver's `STOP` and without device reset
keeps, by induction on the events. -/

namespace Sys2Proof.Machine

/-- An event other than the driver's `STOP` and device reset keeps the driver's session going (R212). -/
theorem proceed_withDisplayOf {s t : State} {e : Event} {es : List Event} (hi : s.self.Inv s.cfg)
    (hs : s.input = e :: es) (hrun : s.self.lcState = .running) (hreset : e ≠ .reset)
    (hstop : ∀ w, e = .act 0 (.command w) → decode w ≠ .ok .stop) (h : proceed s = .ok t) :
    t.self = s.self.withDisplayOf t.self := by
  rcases proceed_self hs h with he | hself | ⟨a, rfl, hact⟩
  · exact absurd he hreset
  · rw [hself]
    rfl
  · exact act_withDisplayOf (s := { s with input := es }) hi hrun (fun w hw => hstop w (congrArg _ hw)) hact

/-- A schedule without the driver's `STOP` and without device reset keeps its session going and the pool conserved. -/
theorem runInput_session {es : List Event} {s u : State} (hinv : s.DriversInv) (hp : s.PoolInv) (hs : s.input = es)
    (hrun : s.self.lcState = .running)
    (hkeep : ∀ e ∈ es, e ≠ .reset ∧ ∀ w, e = .act 0 (.command w) → decode w ≠ .ok .stop)
    (h : runInput s = .ok u) :
    u.DriversInv ∧ u.PoolInv ∧ u.cfg = s.cfg ∧ u.self = s.self.withDisplayOf u.self := by
  induction es generalizing s with
  | nil =>
    obtain rfl : s = u := Except.ok.inj ((runInput_nil hs).symm.trans h)
    exact ⟨hinv, hp, rfl, rfl⟩
  | cons e es ih =>
    obtain ⟨t, ht, hinput, hrest⟩ := (runInput_cons hs).1 h
    obtain ⟨⟨hreset, hstop⟩, hkeep⟩ := List.forall_mem_cons.1 hkeep
    have hself := proceed_withDisplayOf hinv.self hs hrun hreset hstop ht
    obtain ⟨hinvu, hpu, hcfg, hselfu⟩ := ih (proceed_driversInv hinv ht) (proceed_poolInv hinv hp ht) hinput
      (by rw [hself]; exact hrun) hkeep hrest
    exact ⟨hinvu, hpu, hcfg.trans (proceed_cfg ht), Driver.withDisplayOf_trans hself hselfu⟩

/-- `STOP` at the end of a session gives the driver back as it was before the `START`, but for what `STOP` keeps of the
session (R209; 10_state.md R51). -/
theorem stopped_self_of_session {s u : State} (hi : s.self.Inv s.cfg) (hidle : s.self.lcState = .idle)
    (hfill : u.self.fillNext = s.self.fillNext) (hself : u.self = s.started.self.withDisplayOf u.self) :
    u.stopped.self = { s.self with
      fb := u.self.fb, scanLine := u.self.scanLine, shreg := u.self.shreg, rowbuf := u.self.rowbuf,
      fetched := u.self.fetched, rsp := some ⟨.ok, false⟩ } := by
  obtain ⟨htc, hse⟩ := hi.idle hidle
  obtain ⟨hh, hv, hhs, hvs⟩ := hi.disarmed htc
  obtain ⟨hcol, hbusy⟩ := hi.released hse
  rw [State.stopped, hself]
  simp only [Driver.withDisplayOf, State.started, hfill, hidle, htc, hse, hh, hv, hhs, hvs, hcol, hbusy]

/-- The pool after a `STOP` holds what the other drivers hold (60_exceptions.md R254). -/
theorem stopped_pool_of_peers {s : State} (hp : s.PoolInv) (htc : s.self.tcArmed = true)
    (hse : s.self.seArmed = true) :
    (∀ p, p ∈ s.stopped.pool.pins ↔ ∃ d ∈ s.peers, p ∈ d.claimedPins) ∧
    s.stopped.pool.freeTiming + (s.peers.map (Driver.claimedTiming s.cfg)).sum = s.cfg.poolTiming ∧
    s.stopped.pool.freeOutput + (s.peers.map (Driver.claimedOutput s.cfg)).sum = s.cfg.poolOutput := by
  obtain ⟨-, -, hunion, ht, ho⟩ := (State.poolInv_iff.1 hp).stopped htc hse
  refine ⟨fun p => (hunion p).trans ?_, ?_, ?_⟩
  · simp [Holding.nothing, Driver.holding]
  · simpa [Holding.nothing, Driver.holding, Function.comp_def] using ht
  · simpa [Holding.nothing, Driver.holding, Function.comp_def] using ho

end Sys2Proof.Machine
end

section
/-! The statements of 43_driver_lifecycle.md. -/

namespace Sys2Proof.Machine

/-! ## The lifecycle commands -/

/-- Settles O15: the checks come first in every command, and a run goes on after a refused step. -/
theorem commandsWithoutMeaningRefused : Obligations.CommandsWithoutMeaningRefused := by
  refine ⟨fun i s => exec_refused_of_unconstructed, fun s mode col hs vs hf hc => ?_, fun s hf hc hrun => ?_,
    fun i s p hf => exec_refused_of_filling hf i, fun s w i es why hs hw hr => ?_⟩
  · simp [exec, execConstruct, whenHostIdle, hf, hc]
  · simp [exec, execDestroy, whenConstructed_pass hf hc, hrun]
  · have hstep : step s = .refused why := by
      rw [step_command hs, perform_of_decode hw]
      exact hr
    have hgo := proceed_of_refused hstep
    rwa [hs] at hgo

/-- Settles O13: the invariant of an unconstructed driver has every field the command does not write at its reset
value. -/
theorem constructCompletes : Obligations.ConstructCompletes := by
  rintro s mode col hs vs hf hc hwf rfl
  refine ⟨_, execConstruct_eq_next.2 ⟨hf, hc, hwf, .inl ⟨rfl, rfl⟩⟩, rfl, rfl, rfl, rfl, rfl, rfl, rfl, fun a => rfl,
    rfl, rfl, rfl, rfl, rfl, rfl, rfl, rfl, rfl, rfl, hf, rfl, rfl, rfl, rfl, rfl, fun hi => ?_⟩
  rw [hi.unbuilt_eq hc]
  rfl

/-- Settles O16: the reset state, with the response of the command. -/
theorem destroyCompletes : Obligations.DestroyCompletes :=
  fun _ hf hc hidle => ⟨_, _, execDestroy_eq_next.2 ⟨hf, hc, hidle, rfl⟩, rfl, rfl, rfl, rfl, rfl⟩

/-- Settles O17: both arms pass their checks, and position 0 lies in both sync pulses, which are not empty. -/
theorem startCompletes : Obligations.StartCompletes := by
  intro s hwf hf hc hidle htiming hout hhs hvs hcol hvh hch hcv
  have hfree : s.pool.FreeFor s.cfg s.self := ⟨htiming, hout, hhs, hvs, hcol, hvh, hch, hcv⟩
  obtain ⟨-, -, hH, -, hV, -⟩ := Config.wf_iff.1 hwf
  refine ⟨s.started, exec_start_of_freeFor hwf hf hc hidle hfree, ?_, fun p => ?_, Nat.sub_add_cancel htiming,
    Nat.sub_add_cancel hout, rfl, rfl, rfl, rfl⟩
  · simp only [State.started, hsLevel_of_lt hH, vsLevel_of_lt hV]
    rfl
  · simp only [State.started, mem_insertPin]
    tauto

/-- Settles O21: the state a `STOP` leaves. -/
theorem stopCompletes : Obligations.StopCompletes :=
  fun s hi hrise hf _ hrun => ⟨s.stopped, exec_stop_of_running hi hf hrun, rfl, fun _ => mem_stopped_pins hrise, rfl, rfl,
    rfl, rfl, rfl, rfl⟩

/-! ## Sessions -/

/-- Settles O23: in every other event the driver keeps its lifecycle state. -/
theorem onlyStopOrResetEndsSession : Obligations.OnlyStopOrResetEndsSession := by
  refine ⟨fun s t hinv h => ⟨fun hrun hend => ?_, fun k d e hd he hrun hend => ?_⟩, fun s hi hf hrun => ?_⟩
  · exact step_endsSession (j := 0) hinv h rfl rfl hrun hend
  · exact step_endsSession (j := k + 1) hinv h hd he hrun hend
  · exact ⟨s.stopped, exec_stop_of_running hi hf hrun, rfl⟩

/-- Settles O24: the session keeps the driver's configuration and the pool's law, so `STOP` releases exactly what the
`START` claimed, and the next `START` finds it free. -/
theorem restartAfterCleanStop : Obligations.RestartAfterCleanStop := by
  intro s t u es hinv hp hstart hok hkeep hrun hfill
  obtain ⟨e, hne, rfl⟩ | ⟨hidle, hfree, rfl⟩ := execStart_cases hinv.self hstart
  · exact absurd (congrArg Response.status (Option.some.inj hok)) hne
  have hpt : s.started.PoolInv := exec_poolInv hinv hp hstart
  obtain ⟨hinvu, hpu, hcfg, hself⟩ := runInput_session ((exec_driversInv hinv hstart).withInput es) (hpt.withInput es)
    rfl rfl hkeep hrun
  have hrunning : u.self.lcState = .running := by rw [hself]; rfl
  obtain ⟨htc, hse⟩ := hinvu.self.running.1 hrunning
  have hc := hinvu.self.constructed_of_running hrunning
  obtain ⟨hpins, htiming, houtput⟩ := stopped_pool_of_peers hpu htc hse
  obtain ⟨hwf, -⟩ := hinvu.self.mode hc
  exact ⟨u.stopped, exec_stop_of_running hinvu.self hfill hrunning,
    stopped_self_of_session hinv.self hidle (hfill.trans (fillNext_of_exec hstart).symm) hself,
    rfl, hpins, htiming, houtput, stopped_pool_of_started hfree hcfg hself,
    u.stopped.started, exec_start_of_freeFor hwf hfill hc rfl (stopped_freeFor hinvu.self hpu hrunning),
    rfl, rfl, rfl, rfl, rfl⟩

/-! ## Several drivers -/

/-- Settles O56: the claimed pin stops the `START` at the first arm, or at the second, whose rollback gives everything
back. -/
theorem secondInstanceGetsPinConflict : Obligations.SecondInstanceGetsPinConflict := by
  intro s d p hi hp hd hclaimed hnamed hwf hf hc hidle htiming
  have hheld : p ∈ s.pool.pins :=
    (hp.union p).2 (List.mem_flatMap.2 ⟨d, List.mem_cons_of_mem _ hd, hclaimed⟩)
  refine execStart_eq_next.2 ⟨hf, hc, .inr ⟨hidle, frameBufferFits_of_wf hwf, startArms_eq_next.2 ?_⟩⟩
  by_cases hsync : s.self.cfgHsPin ∈ s.pool.pins ∨ s.self.cfgVsPin ∈ s.pool.pins ∨ s.self.cfgVsPin = s.self.cfgHsPin
  · exact .inl ⟨.pinConflict, tcArm_eq_error.2 (.inr ⟨htiming, hsync, rfl⟩), rfl⟩
  · simp only [not_or] at hsync
    obtain ⟨hhs, hvs, hne⟩ := hsync
    have hcol : s.self.cfgColPin ∈ s.pool.pins := by
      rcases hnamed with rfl | rfl | rfl
      · exact absurd hheld hhs
      · exact absurd hheld hvs
      · exact hheld
    have htc := tcArm_eq_ok.2 ⟨htiming, hhs, hvs, hne, rfl, rfl⟩
    refine .inr (.inl ⟨_, _, .pinConflict, htc, seArm_eq_error.2 (.inl ⟨?_, rfl⟩), ?_⟩)
    · exact mem_insertPin.2 (.inr (mem_insertPin.2 (.inr hcol)))
    · rw [hi.tcDisarm_tcArm hidle htc]

/-- Settles O57: an action brings its driver into focus and writes only this driver back. -/
theorem instancesAreIsolated : Obligations.InstancesAreIsolated :=
  fun _ _ _ _ h => ⟨fun hinst => Option.some.inj (atInstance_driverAt_other h hinst.symm),
    fun _ hj => atInstance_driverAt_other h hj, atInstance_act_pool h⟩

end Sys2Proof.Machine
end

section
/-! The errors a command can raise (60_exceptions.md R232 to R237), and that an error is the whole of its effect
(R240). -/

namespace Sys2Proof.Machine

/-- The errors each command can raise (R232 to R237). -/
def errorsOf : Instr → List Status
  | .construct _ _ _ _ => [.modeUnsupported]
  | .destroy => []
  | .start => [.alreadyRunning, .resourceExhausted, .pinConflict]
  | .stop => [.notRunning]
  | .setPixel _ _ => [.outOfBounds]
  | .clearPixel _ _ => [.outOfBounds]
  | .getPixel _ _ => [.outOfBounds]
  | .fill _ => []
  | .writeRowByte _ _ _ => [.outOfBounds]

/-- No error stands on the port. -/
def Driver.NoError (d : Driver) : Prop := ∀ e b, d.rsp = some ⟨e, b⟩ → e = .ok

/-- One of the given errors stands on the port, and it is the whole effect on a driver that meets the invariants
(R240). -/
def State.RaisedOneOf (s t : State) (kinds : List Status) : Prop :=
  ∃ e ∈ kinds, t.self.rsp = some ⟨e, false⟩ ∧ (s.self.Inv s.cfg → t = s.respond e false)

theorem Driver.noError_of_ok {d : Driver} {b : Bool} (h : d.rsp = some ⟨.ok, b⟩) : d.NoError := fun e b' he => by
  rw [h] at he
  exact (congrArg Response.status (Option.some.inj he)).symm

theorem State.raisedOneOf_respond {s : State} {e : Status} {kinds : List Status} (he : e ∈ kinds) :
    s.RaisedOneOf (s.respond e false) kinds :=
  ⟨e, he, rfl, fun _ => rfl⟩

theorem outOfRangeWrite_noError_or {s t : State} (h : outOfRangeWrite s = .next t) :
    t.self.NoError ∨ s.RaisedOneOf t [.outOfBounds] := by
  rcases outOfRangeWrite_eq_next.1 h with ⟨-, rfl⟩ | ⟨-, rfl⟩
  · exact .inr (State.raisedOneOf_respond (List.mem_singleton_self _))
  · exact .inl (Driver.noError_of_ok rfl)

theorem writePixel_noError_or {b : Bool} {x : BitVec 16} {y : BitVec 12} {s t : State}
    (h : writePixel b x y s = .next t) : t.self.NoError ∨ s.RaisedOneOf t [.outOfBounds] := by
  obtain ⟨-, -, ⟨-, m, -, rfl⟩ | ⟨-, h⟩⟩ := writePixel_eq_next.1 h
  · exact .inl (Driver.noError_of_ok rfl)
  · exact outOfRangeWrite_noError_or h

/-- The two arms raise no other errors (R233, R234). -/
theorem tcArm_error_mem {c : Config} {P : Pool} {d : Driver} {e : Status} (h : tcArm c P d = .error e) :
    e ∈ errorsOf .start := by
  rcases tcArm_eq_error.1 h with ⟨-, rfl⟩ | ⟨-, -, rfl⟩ <;> simp [errorsOf]

theorem seArm_error_mem {c : Config} {P : Pool} {d : Driver} {e : Status} (h : seArm c P d = .error e) :
    e ∈ errorsOf .start := by
  rcases seArm_eq_error.1 h with ⟨-, rfl⟩ | ⟨-, -, rfl⟩ <;> simp [errorsOf]

/-- A `START` that fails at step (3) has changed the driver and the pool, and its rollback gives both back (R206). -/
theorem execStart_noError_or {s t : State} (h : execStart s = .next t) :
    t.self.NoError ∨ s.RaisedOneOf t (errorsOf .start) := by
  obtain ⟨-, -, ⟨-, rfl⟩ | ⟨hidle, -, h⟩⟩ := execStart_eq_next.1 h
  · exact .inr (State.raisedOneOf_respond (List.mem_cons_self ..))
  rcases startArms_eq_next.1 h with ⟨e, htc, rfl⟩ | ⟨P, d, e, htc, hse, rfl⟩ | ⟨P, d, P', d', -, -, rfl⟩
  · exact .inr (State.raisedOneOf_respond (tcArm_error_mem htc))
  · exact .inr ⟨e, seArm_error_mem hse, rfl, fun hi => by rw [hi.tcDisarm_tcArm hidle htc]⟩
  · exact .inl (Driver.noError_of_ok rfl)

/-- A completed command leaves no error, or one of its own errors and no other trace (R240). -/
theorem exec_noError_or {i : Instr} {s t : State} (h : exec i s = .next t) :
    t.self.NoError ∨ s.RaisedOneOf t (errorsOf i) := by
  cases i with
  | construct mode col hs vs =>
    obtain ⟨-, -, -, ⟨-, rfl⟩ | ⟨-, rfl⟩⟩ := execConstruct_eq_next.1 h
    · exact .inl (Driver.noError_of_ok rfl)
    · exact .inr (State.raisedOneOf_respond (List.mem_singleton_self _))
  | destroy =>
    obtain ⟨-, -, -, rfl⟩ := execDestroy_eq_next.1 h
    exact .inl (Driver.noError_of_ok rfl)
  | start => exact execStart_noError_or h
  | stop =>
    obtain ⟨-, -, ⟨-, rfl⟩ | ⟨-, rfl⟩⟩ := execStop_eq_next.1 h
    · exact .inr (State.raisedOneOf_respond (List.mem_singleton_self _))
    · exact .inl (Driver.noError_of_ok rfl)
  | setPixel x y => exact writePixel_noError_or h
  | clearPixel x y => exact writePixel_noError_or h
  | getPixel x y =>
    obtain ⟨-, -, ⟨-, b, -, rfl⟩ | ⟨-, rfl⟩⟩ := execGetPixel_eq_next.1 h
    · exact .inl (Driver.noError_of_ok rfl)
    · exact .inr (State.raisedOneOf_respond (List.mem_singleton_self _))
  | fill v =>
    obtain ⟨-, -, h⟩ := execFill_eq_next.1 h
    obtain ⟨-, ⟨-, rfl⟩ | ⟨-, rfl⟩⟩ := fillWrite_eq_next.1 h
    · exact .inl nofun
    · exact .inl (Driver.noError_of_ok rfl)
  | writeRowByte y k d =>
    obtain ⟨-, -, ⟨-, m, -, rfl⟩ | ⟨-, h⟩⟩ := execWriteRowByte_eq_next.1 h
    · exact .inl (Driver.noError_of_ok rfl)
    · exact outOfRangeWrite_noError_or h

/-- An error on the port after a command is one of the command's errors, with data 0, and the whole of its effect
(R240). -/
theorem exec_error {i : Instr} {s t : State} {e : Status} {b : Bool} (h : exec i s = .next t)
    (hrsp : t.self.rsp = some ⟨e, b⟩) (hne : e ≠ .ok) :
    e ∈ errorsOf i ∧ (s.self.Inv s.cfg → t = s.respond e false) := by
  rcases exec_noError_or h with hok | ⟨e', hmem, hrsp', htrace⟩
  · exact absurd (hok e b hrsp) hne
  · obtain rfl : e' = e := congrArg Response.status (Option.some.inj (hrsp'.symm.trans hrsp))
    exact ⟨hmem, htrace⟩

/-- Only `CONSTRUCT` has `ModeUnsupported` among its errors (R232). -/
theorem construct_of_modeUnsupported_mem {i : Instr} (h : .modeUnsupported ∈ errorsOf i) :
    ∃ mode col hs vs, i = .construct mode col hs vs := by
  cases i with
  | construct mode col hs vs => exact ⟨mode, col, hs, vs, rfl⟩
  | _ => simp [errorsOf] at h

end Sys2Proof.Machine
end

section
/-! The order of the checks of `START` (60_exceptions.md R247), and the commands with an operand out of range (R237). -/

namespace Sys2Proof.Machine

section Checked

variable {s : State} (hf : s.self.fillNext = none) (hc : s.self.constructed = true)
include hf hc

/-- An idle driver's `START` answers what its arms answer. -/
theorem exec_start_of_startArms {t : State} (hwf : s.cfg.wf = true) (hidle : s.self.lcState ≠ .running)
    (h : startArms s = .next t) : exec .start s = .next t := by
  have hstate : s.self.lcState = .idle := by
    cases hl : s.self.lcState with
    | idle => rfl
    | running => exact absurd hl hidle
  exact execStart_eq_next.2 ⟨hf, hc, .inr ⟨hstate, frameBufferFits_of_wf hwf, h⟩⟩

theorem writePixel_outOfRange {x : BitVec 16} {y : BitVec 12} {t : State} (hout : pixelInRange s.cfg x y = false)
    (h : outOfRangeWrite s = .next t) (b : Bool) : writePixel b x y s = .next t :=
  writePixel_eq_next.2 ⟨hf, hc, .inr ⟨hout, h⟩⟩

theorem execWriteRowByte_outOfRange {y : BitVec 12} {k : BitVec 8} {t : State}
    (hout : rowByteInRange s.cfg y k = false) (h : outOfRangeWrite s = .next t) (d : BitVec 8) :
    execWriteRowByte y k d s = .next t :=
  execWriteRowByte_eq_next.2 ⟨hf, hc, .inr ⟨hout, h⟩⟩

end Checked

theorem outOfRangeWrite_fail {s : State} (h : s.cfg.oobPolicy = .fail) :
    outOfRangeWrite s = .next (s.respond .outOfBounds false) :=
  outOfRangeWrite_eq_next.2 (.inl ⟨h, rfl⟩)

theorem outOfRangeWrite_clip {s : State} (h : s.cfg.oobPolicy = .clip) :
    outOfRangeWrite s = .next (s.respond .ok false) :=
  outOfRangeWrite_eq_next.2 (.inr ⟨h, rfl⟩)

/-- A `START` whose first arm fails answers this arm's error. -/
theorem startArms_of_tcArm_error {s : State} {e : Status} (h : tcArm s.cfg s.pool s.self = .error e) :
    startArms s = .next (s.respond e false) :=
  startArms_eq_next.2 (.inl ⟨e, h, rfl⟩)

/-- Once the first arm's checks pass, what is left to check is the colour pin, which may be one of the two pins just
claimed, and the output channels (R180). -/
theorem startArms_of_tcArm_passes {s : State} (htiming : s.cfg.tcChannels ≤ s.pool.freeTiming)
    (hhs : s.self.cfgHsPin ∉ s.pool.pins) (hvs : s.self.cfgVsPin ∉ s.pool.pins)
    (hvh : s.self.cfgVsPin ≠ s.self.cfgHsPin) :
    ∃ t, startArms s = .next t ∧ t.self.rsp = some ⟨
      if s.self.cfgColPin ∈ s.pool.pins ∨ s.self.cfgColPin = s.self.cfgHsPin ∨ s.self.cfgColPin = s.self.cfgVsPin
        then .pinConflict
      else if s.pool.freeOutput < s.cfg.seChannels then .resourceExhausted
      else .ok, false⟩ := by
  have htc := tcArm_eq_ok.2 ⟨htiming, hhs, hvs, hvh, rfl, rfl⟩
  have hcol : s.self.cfgColPin ∈ insertPin s.self.cfgVsPin (insertPin s.self.cfgHsPin s.pool.pins) ↔
      s.self.cfgColPin ∈ s.pool.pins ∨ s.self.cfgColPin = s.self.cfgHsPin ∨ s.self.cfgColPin = s.self.cfgVsPin := by
    rw [mem_insertPin, mem_insertPin]
    tauto
  rw [← if_congr hcol rfl rfl]
  split
  case isTrue hheld =>
    exact ⟨_, startArms_eq_next.2 (.inr (.inl ⟨_, _, _, htc, seArm_eq_error.2 (.inl ⟨hheld, rfl⟩), rfl⟩)), rfl⟩
  case isFalse hfree =>
    split
    case isTrue hout =>
      exact ⟨_, startArms_eq_next.2 (.inr (.inl ⟨_, _, _, htc, seArm_eq_error.2 (.inr ⟨hfree, hout, rfl⟩), rfl⟩)), rfl⟩
    case isFalse hout =>
      exact ⟨_, startArms_eq_next.2 (.inr (.inr ⟨_, _, _, _, htc,
        seArm_eq_ok.2 ⟨hfree, Nat.le_of_not_lt hout, rfl, rfl⟩, rfl⟩)), rfl⟩

/-- The arms of `START` always answer, with the first error of R247's order. -/
theorem startArms_firstError (s : State) :
    ∃ t, startArms s = .next t ∧ t.self.rsp = some ⟨
      if s.pool.freeTiming < s.cfg.tcChannels then .resourceExhausted
      else if s.self.cfgHsPin ∈ s.pool.pins then .pinConflict
      else if s.self.cfgVsPin ∈ s.pool.pins ∨ s.self.cfgVsPin = s.self.cfgHsPin then .pinConflict
      else if s.self.cfgColPin ∈ s.pool.pins ∨ s.self.cfgColPin = s.self.cfgHsPin ∨
          s.self.cfgColPin = s.self.cfgVsPin then .pinConflict
      else if s.pool.freeOutput < s.cfg.seChannels then .resourceExhausted
      else .ok, false⟩ := by
  by_cases htiming : s.pool.freeTiming < s.cfg.tcChannels
  · rw [if_pos htiming]
    exact ⟨_, startArms_of_tcArm_error (tcArm_eq_error.2 (.inl ⟨htiming, rfl⟩)), rfl⟩
  rw [if_neg htiming]
  have htiming := Nat.le_of_not_lt htiming
  by_cases hhs : s.self.cfgHsPin ∈ s.pool.pins
  · rw [if_pos hhs]
    exact ⟨_, startArms_of_tcArm_error (tcArm_eq_error.2 (.inr ⟨htiming, .inl hhs, rfl⟩)), rfl⟩
  rw [if_neg hhs]
  by_cases hvs : s.self.cfgVsPin ∈ s.pool.pins ∨ s.self.cfgVsPin = s.self.cfgHsPin
  · rw [if_pos hvs]
    exact ⟨_, startArms_of_tcArm_error (tcArm_eq_error.2 (.inr ⟨htiming, .inr hvs, rfl⟩)), rfl⟩
  rw [if_neg hvs]
  obtain ⟨hvs, hvh⟩ := not_or.1 hvs
  exact startArms_of_tcArm_passes htiming hhs hvs hvh

end Sys2Proof.Machine
end

section
/-! The statements of 60_exceptions.md. -/

namespace Sys2Proof.Machine

/-! ## The pool -/

/-- Settles O11: the law speaks of what each driver holds, which only a completed `START` or `STOP` and device reset
change. -/
theorem stepKeepsPoolConservation : Obligations.StepKeepsPoolConservation :=
  fun _ _ => step_poolInv

/-- Settles O55: a rising list of pins has each pin once, so a release removes it. -/
theorem poolOperations : Obligations.PoolOperations :=
  fun _ p _ _ hrise => ⟨mem_insertPin, insertPin_rising hrise p, (mem_removePin (rising_nodup hrise)).trans and_comm,
    removePin_rising hrise p, Nat.sub_add_cancel, rfl, Nat.sub_add_cancel, rfl⟩

/-! ## The errors -/

/-- Settles O14: no other command has this error, and `CONSTRUCT` raises it only when the mode is not the supported
one. -/
theorem unsupportedModeRejected : Obligations.UnsupportedModeRejected := by
  refine ⟨fun s mode col hs vs hf hc hwf hmode => ?_, fun i s t b h hrsp => ?_⟩
  · exact execConstruct_eq_next.2 ⟨hf, hc, hwf, .inr ⟨hmode, rfl⟩⟩
  · obtain ⟨hmem, -⟩ := exec_error h hrsp nofun
    obtain ⟨mode, col, hs, vs, rfl⟩ := construct_of_modeUnsupported_mem hmem
    obtain ⟨-, -, -, ⟨-, rfl⟩ | ⟨hmode, -⟩⟩ := execConstruct_eq_next.1 h
    · exact nomatch Driver.noError_of_ok rfl _ _ hrsp
    · exact ⟨mode, col, hs, vs, rfl, hmode⟩

/-- Settles O18: the checks of the lifecycle state, of the first arm and of the second, in this order. -/
theorem startReportsFirstError : Obligations.StartReportsFirstError := by
  intro s hwf hf hc
  by_cases hrun : s.self.lcState = .running
  · rw [if_pos hrun]
    exact ⟨_, execStart_eq_next.2 ⟨hf, hc, .inl ⟨hrun, rfl⟩⟩, rfl⟩
  · rw [if_neg hrun]
    obtain ⟨t, ht, hrsp⟩ := startArms_firstError s
    exact ⟨t, exec_start_of_startArms hf hc hwf hrun ht, hrsp⟩

/-- Settles O19, the rollback of `START` included. -/
theorem errorsLeaveNoTrace : Obligations.ErrorsLeaveNoTrace :=
  fun _ _ _ _ _ hi h hrsp hne => (exec_error h hrsp hne).2 hi

/-- Settles O20: both commands check the lifecycle state before they do anything. -/
theorem lifecycleMisuseReported : Obligations.LifecycleMisuseReported :=
  ⟨fun _ hf hc hrun => execStart_eq_next.2 ⟨hf, hc, .inl ⟨hrun, rfl⟩⟩,
    fun _ hf hc hidle => execStop_eq_next.2 ⟨hf, hc, .inl ⟨hidle, rfl⟩⟩⟩

/-- Settles O35: `GET_PIXEL` does not ask the policy, and the writes do nothing else. -/
theorem outOfRangeTouchesNothing : Obligations.OutOfRangeTouchesNothing := by
  intro s x y k d hf hc
  refine ⟨fun hout => execGetPixel_eq_next.2 ⟨hf, hc, .inr ⟨hout, rfl⟩⟩, fun hout hfail => ?_, fun hout hclip => ?_,
    fun hout hfail => ?_, fun hout hclip => ?_⟩
  · exact ⟨writePixel_outOfRange hf hc hout (outOfRangeWrite_fail hfail) true,
      writePixel_outOfRange hf hc hout (outOfRangeWrite_fail hfail) false⟩
  · exact ⟨writePixel_outOfRange hf hc hout (outOfRangeWrite_clip hclip) true,
      writePixel_outOfRange hf hc hout (outOfRangeWrite_clip hclip) false⟩
  · exact execWriteRowByte_outOfRange hf hc hout (outOfRangeWrite_fail hfail) d
  · exact execWriteRowByte_outOfRange hf hc hout (outOfRangeWrite_clip hclip) d

end Sys2Proof.Machine
end

section
/-! When the colour is active (42_scanout_engine.md R175, R179): only an armed engine drives the colour pin, and it drives
the active level only while it shows a pixel of the beam's line. -/

namespace Sys2Proof.Machine

theorem Level.drive_ne_z (b : Bool) : Level.drive b ≠ .z := by cases b <;> decide

theorem Level.drive_injective : Function.Injective Level.drive := by decide

/-- A driver with an armed ScanoutEngine is running (R28 (b), (c)). -/
theorem Driver.Inv.running_of_seArmed {c : Config} {d : Driver} (h : d.Inv c) (hse : d.seArmed = true) :
    d.lcState = .running := by
  cases hl : d.lcState with
  | idle => rw [(h.idle hl).2] at hse; cases hse
  | running => rfl

/-- Only an armed ScanoutEngine drives the colour pin (R41). -/
theorem Driver.Inv.seArmed_of_drivesColor {c : Config} {d : Driver} {b : Bool} (h : d.Inv c)
    (hb : d.pinColor = Level.drive b) : d.seArmed = true := by
  cases hse : d.seArmed with
  | false => exact absurd (hb.symm.trans (h.released hse).1) (Level.drive_ne_z b)
  | true => rfl

/-- The active level is shown only in a pixel period of a row being served (R175). -/
theorem scanning_of_scanLevel_active {c : Config} {d : Driver} (hne : c.colorActive ≠ c.colorInactive)
    (h : scanLevel c d = Level.drive c.colorActive) :
    d.scanBusy = true ∧ c.h0 ≤ d.hcount.toNat ∧ d.hcount.toNat < c.h0 + c.width := by
  by_contra hblank
  rw [scanLevel_of_blank hblank] at h
  exact hne (Level.drive_injective h).symm

/-- A driver whose colour is active serves a row, in one of its pixel periods. -/
theorem Driver.Inv.scanning_of_colorActive {c : Config} {d : Driver} (h : d.Inv c)
    (hcol : d.pinColor = Level.drive c.colorActive) :
    d.scanBusy = true ∧ c.h0 ≤ d.hcount.toNat ∧ d.hcount.toNat < c.h0 + c.width := by
  have hse := h.seArmed_of_drivesColor hcol
  obtain ⟨hwf, -⟩ := h.mode (h.constructed_of_running (h.running_of_seArmed hse))
  obtain ⟨-, -, -, -, -, -, -, -, -, -, -, -, -, hne, -⟩ := Config.wf_iff.1 hwf
  exact scanning_of_scanLevel_active hne ((h.colour hse).symm.trans hcol)

/-- The row being served is that of the beam's line from the row's first pixel on: the signal that chose it comes no
later (R179, 70_reset_and_hazards.md R284). -/
theorem Driver.Inv.activeLine_of_scanning {c : Config} {d : Driver} (h : d.Inv c) (hb : d.scanBusy = true)
    (hh : c.h0 ≤ d.hcount.toNat) : c.v0 ≤ d.vcount.toNat ∧ d.vcount.toNat < c.v0 + c.vActive := by
  obtain ⟨-, htc, -⟩ := h.tracking hb
  obtain ⟨hwf, -⟩ := h.mode (h.constructed_of_tcArmed htc)
  obtain ⟨-, -, -, -, -, -, -, -, -, -, -, -, hlat, -⟩ := Config.wf_iff.1 hwf
  obtain ⟨-, hline⟩ := h.servesBeamLine hb
  obtain ⟨hlo, hhi, -⟩ := hline (hlat.trans hh)
  exact ⟨hlo, hhi⟩

end Sys2Proof.Machine
end

section
/-! The statements of 70_reset_and_hazards.md. -/

namespace Sys2Proof.Machine

/-- Settles O53: an active colour is a pixel of the row being served, and that row is the beam's, on an active line. -/
theorem colourConfinedToActiveWindow : Obligations.ColourConfinedToActiveWindow := by
  intro s d hs hd hcol
  obtain ⟨hbusy, hlo, hhi⟩ := (hs d hd).scanning_of_colorActive hcol
  obtain ⟨hvlo, hvhi⟩ := (hs d hd).activeLine_of_scanning hbusy hlo
  exact ⟨hvlo, hvhi, hlo, hhi⟩

/-- Settles O22: the state a `STOP` leaves is the same at every position. -/
theorem stopAnywhereReleasesPins : Obligations.StopAnywhereReleasesPins :=
  fun s hi hf hrun => ⟨s.stopped, exec_stop_of_running hi hf hrun, rfl⟩

end Sys2Proof.Machine
end
